-- ==== Sys2Proof/Word.lean ====
section
/-! DEFINITION. The word types of the BLOCK: the 32-bit command word, the 24-bit colour, the 8-bit channel,
the 4-bit codes and the level of the line. -/

namespace Sys2Proof

/-- The command word of the port `cmd_word` (10_state.md R20, 30_encoding.md R76). -/
abbrev CmdWord := BitVec 32

/-- One colour channel, 8 bits unsigned (20_memory.md R61). -/
abbrev Channel := BitVec 8

/-- A colour `{r, g, b}` (10_state.md R29), or a wire word `{g, r, b}` (20_memory.md R58). -/
abbrev Colour := BitVec 24

/-- A 4-bit code: an opcode (R77), an internal operation (R88), a fault code or a sub-cause (R36). -/
abbrev Nibble := BitVec 4

/-- The level of the line: `true` is 1, high, and `false` is 0, low (10_state.md R38). -/
abbrev Level := Bool

end Sys2Proof
end

