-- ==== Sys2Proof/Syntax.lean ====
section
/-! DEFINITION. The instructions: the two host commands (30_encoding.md R77) and the seven internal operations
(R88), one constructor per row of spec/opcode_table.json. -/

namespace Sys2Proof

/-- One operation of the BLOCK. The operands that no encoding carries (the parameters, the draws, the latched
colour) are read from the state; `loopCount` is the one operand the spec restricts (R145, R150). -/
inductive Instr where
  /-- INIT, word `0x10000000` (R78). -/
  | init
  /-- SEND r, g, b, word `0x20RRGGBB` (R79). -/
  | send (r g b : Channel)
  /-- ENCODE, internal code 0x1 (40_encoder.md R108). -/
  | encode
  /-- CONFIGURE, internal code 0x2 (42_peripheral.md R140). -/
  | configure
  /-- CREATE_COPY_ENCODER, internal code 0x3 (R141). -/
  | createCopyEncoder
  /-- ENABLE, internal code 0x4 (R142). -/
  | enable
  /-- TRANSMIT, internal code 0x5 (R145), with its operand `loop_count`. -/
  | transmit (loopCount : Nat)
  /-- WAIT_COMPLETE, internal code 0x6 (R152). -/
  | waitComplete
  /-- HOLD_LOW, internal code 0x7 (R155). -/
  | holdLow
deriving DecidableEq, Repr

end Sys2Proof
end

