-- ==== Sys2Proof/WellFormed.lean ====
section
/-! DEFINITION. Which instructions the BLOCK can present. -/

namespace Sys2Proof

/-- The one restriction on operands: TRANSMIT's loop count is always 1 (42_peripheral.md R145, R150); a model
must refuse any other (30_encoding.md R85). Every colour is legal (R79). -/
def Instr.wellFormed : Instr → Bool
  | .init => true
  | .send _ _ _ => true
  | .encode => true
  | .configure => true
  | .createCopyEncoder => true
  | .enable => true
  | .transmit loopCount => loopCount == 1
  | .waitComplete => true
  | .holdLow => true

end Sys2Proof
end

