-- ==== Sys2Proof/Decode.lean ====
section
/-! DEFINITION. Decoding of the two kinds of code (the 32-bit command word and the 4-bit internal code), total
and rejecting by name, and after it the encoder. -/

namespace Sys2Proof

/-- Why a command word is illegal (60_exceptions.md R174). -/
inductive IllegalSub where
  /-- OP is not 0x1 or 0x2 (30_encoding.md R81). -/
  | reservedOpcode
  /-- A reserved bit of an INIT or SEND word is set (R82). -/
  | reservedBits
deriving DecidableEq, Repr

/-- What a command word stands for: "exactly one of INIT, SEND(r, g, b) or illegal" (R83). -/
inductive Decoded where
  | instr (i : Instr)
  | illegal (sub : IllegalSub)
deriving DecidableEq, Repr

/-- A code of the BLOCK: a word of the command port, or an internal 4-bit code, which is never on a port (R88). -/
inductive Code where
  | command (w : CmdWord)
  | internal (c : Nibble)
deriving DecidableEq, Repr

/-- The fields of the command word (R76). -/
def opField (w : CmdWord) : Nibble := w.extractLsb' 28 4
def rsvField (w : CmdWord) : Nibble := w.extractLsb' 24 4
def redField (w : CmdWord) : Channel := w.extractLsb' 16 8
def greenField (w : CmdWord) : Channel := w.extractLsb' 8 8
def blueField (w : CmdWord) : Channel := w.extractLsb' 0 8

/-- Bits [27:0] of the command word, all of which are reserved in INIT (R78, R82). -/
def below28Field (w : CmdWord) : BitVec 28 := w.extractLsb' 0 28

/-- `decode` of R83. -/
def decodeCommand (w : CmdWord) : Decoded :=
  if opField w = 1#4 then
    if below28Field w = 0#28 then .instr .init else .illegal .reservedBits
  else if opField w = 2#4 then
    if rsvField w = 0#4 then .instr (.send (redField w) (greenField w) (blueField w))
    else .illegal .reservedBits
  else .illegal .reservedOpcode

/-- The internal operation codes of R88; `none` for the codes 0x0 and 0x8 to 0xF, which R88 assigns to nothing.
`loop_count` has no bits in the code and is always 1 (R150). -/
def decodeInternal (c : Nibble) : Option Instr :=
  if c = 1#4 then some .encode
  else if c = 2#4 then some .configure
  else if c = 3#4 then some .createCopyEncoder
  else if c = 4#4 then some .enable
  else if c = 5#4 then some (.transmit 1)
  else if c = 6#4 then some .waitComplete
  else if c = 7#4 then some .holdLow
  else none

/-- The whole decoder's answer, with a name for every rejection. -/
inductive DecodeResult where
  | ok (i : Instr)
  /-- A reserved opcode of the command word (R81). -/
  | reservedOpcode
  /-- A reserved bit of the command word (R82). -/
  | reservedBits
  /-- An internal code that R88 assigns to no operation. -/
  | unassignedCode
deriving DecidableEq, Repr

/-- Decode any code of the BLOCK. -/
def decode : Code → DecodeResult
  | .command w =>
    match decodeCommand w with
    | .instr i => .ok i
    | .illegal .reservedOpcode => .reservedOpcode
    | .illegal .reservedBits => .reservedBits
  | .internal c =>
    match decodeInternal c with
    | some i => .ok i
    | none => .unassignedCode

/-- The code of an instruction, from the tables of R76 to R79 and R88. `loopCount` has no bits. -/
def encode : Instr → Code
  | .init => .command 0x10000000#32
  | .send r g b => .command (2#4 ++ 0#4 ++ r ++ g ++ b)
  | .encode => .internal 1#4
  | .configure => .internal 2#4
  | .createCopyEncoder => .internal 3#4
  | .enable => .internal 4#4
  | .transmit _ => .internal 5#4
  | .waitComplete => .internal 6#4
  | .holdLow => .internal 7#4

/-- The code that `nbits` bits of value `w` stand for in spec/opcode_table.json: its 32-bit rows are command
words, its 4-bit rows (one byte, the high four bits 0) are internal codes (log 23). -/
def tableCode (nbits w : Nat) : Option Code :=
  if nbits = 32 then some (.command (BitVec.ofNat 32 w))
  else if nbits ≤ 8 ∧ w < 16 then some (.internal (BitVec.ofNat 4 w))
  else none

/-- The instruction the decoder reads from an opcode-table row's word; `none` where it rejects. -/
def decodeTableWord (nbits w : Nat) : Option Instr :=
  match tableCode nbits w with
  | none => none
  | some code =>
    match decode code with
    | .ok i => some i
    | .reservedOpcode => none
    | .reservedBits => none
    | .unassignedCode => none

end Sys2Proof
end

