-- ==== Sys2Proof/Config.lean ====
section
/-! DEFINITION. What is fixed for one machine (the elaboration parameters of 00_scope.md R8 to R14), and the
free values of the model: opaque constants, of which nothing can be proved. -/

namespace Sys2Proof.Config

/-- The elaboration parameters (10_state.md R44). A value below the floor of `RESET_HOLD_TICKS` cannot be
built: that is "refused at elaboration" (42_peripheral.md R143). -/
structure Params where
  /-- `PIN`, the output GPIO index (R9). -/
  pin : Nat
  /-- `PIN_VALID`, the pins the platform can bind (R9). -/
  validPins : List Nat
  /-- `RESOLUTION_HZ` (R8). -/
  resolutionHz : Nat
  /-- `SYMBOL_CAPACITY` (R10). -/
  symbolCapacity : Nat
  /-- `QUEUE_DEPTH` (R11). -/
  queueDepth : Nat
  /-- `RESET_HOLD_TICKS` (R12). -/
  resetHoldTicks : Nat
  /-- `WAIT_TIMEOUT_TICKS`; `none` is `UNBOUNDED` (R13). -/
  waitTimeoutTicks : Option Nat
  /-- `START_LATENCY_TICKS` (R14). -/
  startLatencyTicks : Nat
  /-- `RESET_HOLD_TICKS >= 500` (R12, R143). -/
  resetHold_floor : 500 ≤ resetHoldTicks
deriving DecidableEq, Repr

/-- The spec's values: R8, R12, R13, R14. DESIGN CHOICE (log 2): `PIN`, `PIN_VALID`, `SYMBOL_CAPACITY` and
`QUEUE_DEPTH` are OPEN; these are the values of the spec's test vectors, with pin 0. No statement rests on them. -/
def Params.spec : Params where
  pin := 0
  validPins := [0]
  resolutionHz := 10000000
  symbolCapacity := 24
  queueDepth := 1
  resetHoldTicks := 10000
  waitTimeoutTicks := none
  startLatencyTicks := 0
  resetHold_floor := by decide

/-! Free values (log 4): the inputs and draws of a tick that the schedule of the state does not give, by tick
index. R23: "They are drawn freely each tick". -/

opaque freeRst : Nat → Bool
opaque freeCmdValid : Nat → Bool
opaque freeCmdWord : Nat → CmdWord
/-- `init_latency` less one, so that the draw itself is at least 1 (R23). -/
opaque freeInitLatencyLessOne : Nat → Nat
opaque freeConfigureOk : Nat → Bool
opaque freeCopyEncOk : Nat → Bool
opaque freeEnableOk : Nat → Bool
opaque freeTxOk : Nat → Bool
opaque freeWaitErr : Nat → Bool

/-! Free values (log 5): the record that an entry of SYM holds from a reset until it is written, by reset and index.
10_state.md R49: "unspecified (any value)". -/

opaque freeSymbolLevel0 : Nat → Nat → Level
opaque freeSymbolDuration0 : Nat → Nat → BitVec 16
opaque freeSymbolLevel1 : Nat → Nat → Level
opaque freeSymbolDuration1 : Nat → Nat → BitVec 16

end Sys2Proof.Config
end

