-- ==== Sys2Proof/Machine/State.lean ====
section
/-! DEFINITION. The state of the BLOCK as plain data, the reasons a step of the model stops, and the state after
reset. INVENTORY.md lists every field with its rule. -/

namespace Sys2Proof.Machine

/-- The sequencer state (10_state.md R26). -/
inductive Seq where
  | uninit
  | initBusy
  | idle
  | tx
  | hold
  | fault
deriving DecidableEq, Repr

/-- The generator state (10_state.md R35). -/
inductive GenState where
  | gIdle
  | gStart
  | gRun
deriving DecidableEq, Repr

/-- A symbol record (30_encoding.md R84). Its packing is not visible. -/
structure Symbol where
  level0 : Level
  duration0 : BitVec 16
  level1 : Level
  duration1 : BitVec 16
deriving DecidableEq, Repr

/-- What has been written to the symbol memory SYM since reset (20_memory.md R50, R51): index and record, indices
strictly rising; the unit of access is one whole record. An entry that is not listed holds the free record that reset
left in it (`State.symbolAt`, log 5). -/
abbrev SymMem := List (Nat × Symbol)

/-- What the outside gives in one tick: the input ports of 10_state.md R20 and the draws of R23. -/
structure TickInput where
  rst : Bool
  cmdValid : Bool
  cmdWord : CmdWord
  initLatency : Nat
  configureOk : Bool
  copyEncOk : Bool
  enableOk : Bool
  txOk : Bool
  waitErr : Bool
  /-- `init_latency : Nat≥1` (R23). -/
  initLatency_pos : 1 ≤ initLatency
deriving DecidableEq, Repr

/-- The state. Every field but `cfg`, `symReset`, `inputs` and `tick` is one of 10_state.md R26 to R36. -/
structure State where
  /-- The elaboration parameters; no step writes them (R44, log 1). -/
  cfg : Config.Params
  /-- `seq` (R26). -/
  seq : Seq
  /-- `init_done` (R27). -/
  initDone : Bool
  /-- `init_cnt` (R28). -/
  initCnt : Nat
  /-- `color` (R29). -/
  color : Colour
  /-- `chan_alloc` (R30). -/
  chanAlloc : Bool
  /-- `copy_enc` (R30). -/
  copyEnc : Bool
  /-- `chan_en` (R30). -/
  chanEn : Bool
  /-- `SYM` (R31): the entries written since reset. -/
  sym : SymMem
  /-- The model's own: the reset that the entries of SYM not written since then hold their free records from (log 5). -/
  symReset : Nat
  /-- `q_count` (R32). -/
  qCount : Nat
  /-- `gen_state` (R35). -/
  genState : GenState
  /-- `gen_start_cnt` (R35). -/
  genStartCnt : Nat
  /-- `sym_idx` (R35). -/
  symIdx : BitVec 5
  /-- `half`: `false` is 0, the first half, and `true` is 1, the second (R35). -/
  half : Bool
  /-- `elapsed` (R35). -/
  elapsed : BitVec 16
  /-- `wait_cnt` (R33). -/
  waitCnt : Nat
  /-- `hold_cnt` (R34). -/
  holdCnt : Nat
  /-- `fault_code` (R36). -/
  faultCode : Nibble
  /-- `fault_sub` (R36). -/
  faultSub : Nibble
  /-- The model's own: the inputs of the coming ticks, this tick's first (log 3). -/
  inputs : List TickInput
  /-- The model's own: the index of the free inputs, read when `inputs` is empty (log 4). -/
  tick : Nat
deriving DecidableEq, Repr

/-- Why the model stops with a fault. (A fault of the BLOCK itself is a next state: 60_exceptions.md R180.) -/
inductive Fault where
  /-- Raised by ENCODE and the generator when SYMBOL_CAPACITY is below 24, and by the generator when `sym_idx` is above
  23: an access to an entry SYM does not have (20_memory.md R52). Safe; no reachable state raises it (log 8). -/
  | symIndexOutOfRange
deriving DecidableEq, Repr

/-- Why the model refuses. All of these but the first are cases the spec says a model must refuse. -/
inductive Refusal where
  /-- Raised by an arm of `exec` whose instruction has no meaning yet. Safe. No arm raises it. -/
  | notModelled (mnemonic : String)
  /-- Raised by TRANSMIT with a loop count other than 1 (30_encoding.md R85, 42_peripheral.md R150). Safe. -/
  | loopCountNotOne
  /-- Raised by TRANSMIT into a full queue (42_peripheral.md R146). Safe. -/
  | queueFull
  /-- Raised by the generator on a record other than ONE and ZERO (30_encoding.md R85). Safe. -/
  | illegalSymbol
deriving DecidableEq, Repr

/-- RESET_STATE (10_state.md R49, 70_reset_and_hazards.md R201) of a machine with these parameters; the
schedule and the tick index belong to the outside and are given. SYM is unspecified, any value: nothing is written, so
every entry holds the free record of this reset (`State.symbolAt`, log 5). -/
def State.resetOf (cfg : Config.Params) (inputs : List TickInput) (tick : Nat) : State where
  cfg := cfg
  seq := .uninit
  initDone := false
  initCnt := 0
  color := 0#24
  chanAlloc := false
  copyEnc := false
  chanEn := false
  sym := []
  symReset := tick
  qCount := 0
  genState := .gIdle
  genStartCnt := 0
  symIdx := 0#5
  half := false
  elapsed := 0#16
  waitCnt := 0
  holdCnt := 0
  faultCode := 0#4
  faultSub := 0#4
  inputs := inputs
  tick := tick

/-- The machine right after reset, with the spec's parameters and no input scheduled. -/
def State.reset : State := State.resetOf Config.Params.spec [] 0

end Sys2Proof.Machine
end

