-- ==== Sys2Proof/Machine/Operands.lean ====
section
/-! DEFINITION. The operands: the fixed constants, the colour and its channels, the wire word, the symbol of a
bit, the frame of a colour and its waveform. -/

namespace Sys2Proof.Machine

/-! ### The fixed constants (00_scope.md R15) -/

abbrev FRAME_SYMBOLS : Nat := 24
abbrev T1H : BitVec 16 := 7#16
abbrev T1L : BitVec 16 := 6#16
abbrev T0H : BitVec 16 := 4#16
abbrev T0L : BitVec 16 := 8#16
abbrev LOOP_COUNT : Nat := 1

/-- The one legal RESOLUTION_HZ (00_scope.md R8). -/
abbrev LEGAL_RESOLUTION_HZ : Nat := 10000000

/-- The latch floor, 50 µs (00_scope.md R12, 41_transmitter.md R138). -/
abbrev LATCH_FLOOR_TICKS : Nat := 500

/-! ### The colour -/

/-- The colour register's layout `{r, g, b}` (10_state.md R29, 30_encoding.md R80). -/
def colourOf (r g b : Channel) : Colour := r ++ g ++ b

def redOf (c : Colour) : Channel := c.extractLsb' 16 8
def greenOf (c : Colour) : Channel := c.extractLsb' 8 8
def blueOf (c : Colour) : Channel := c.extractLsb' 0 8

/-- `wire[ch]` (40_encoder.md R102): 0 is green, 1 is red, 2 is blue. -/
def wireChannel (c : Colour) : Nat → Channel
  | 0 => greenOf c
  | 1 => redOf c
  | _ => blueOf c

/-- The 24-bit wire word `{g, r, b}` (20_memory.md R58). -/
def wireWord (c : Colour) : BitVec 24 := greenOf c ++ redOf c ++ blueOf c

/-! ### Symbols and frames -/

/-- ONE (30_encoding.md R86). -/
def Symbol.one : Symbol := ⟨true, T1H, false, T1L⟩

/-- ZERO (R86). -/
def Symbol.zero : Symbol := ⟨true, T0H, false, T0L⟩

/-- Only ONE and ZERO are legal records (R85). -/
def Symbol.legal (e : Symbol) : Bool := e == Symbol.one || e == Symbol.zero

/-- `symbol(bit)` (40_encoder.md R101). -/
def symbolOf (bit : Bool) : Symbol := if bit then Symbol.one else Symbol.zero

/-- The ticks of one half of a record (42_peripheral.md R147, `dur`). -/
def Symbol.halfTicks (e : Symbol) (half : Bool) : Nat :=
  if half then e.duration1.toNat else e.duration0.toNat

/-- The level of one half of a record (10_state.md R37). -/
def Symbol.halfLevel (e : Symbol) (half : Bool) : Level :=
  if half then e.level1 else e.level0

/-- The position of bit `k` of wire channel `ch` (40_encoder.md R105). -/
def position (ch k : Nat) : Nat := ch * 8 + (7 - k)

/-- The record at position `p` of the frame of `c`: `symbol(w[23 - p])` (R108, 30_encoding.md R87). -/
def frameSymbol (c : Colour) (p : Nat) : Symbol := symbolOf ((wireWord c).getLsbD (23 - p))

/-- `encode(c)` as a list (R108). -/
def frameList (c : Colour) : List Symbol := (List.range FRAME_SYMBOLS).map (frameSymbol c)

/-! ### Waveforms (00_scope.md R17) -/

/-- A run `(level, ticks)`. -/
abbrev Run := Level × Nat

/-- The line, tick by tick, of a list of runs. -/
def expandRuns (rs : List Run) : List Level := rs.flatMap fun r => List.replicate r.2 r.1

/-- The two runs of one record, verbatim (42_peripheral.md R147). -/
def symbolRuns (e : Symbol) : List Run :=
  [(e.level0, e.duration0.toNat), (e.level1, e.duration1.toNat)]

/-- The runs of the frame of `c` (40_encoder.md R107). -/
def waveRuns (c : Colour) : List Run := (frameList c).flatMap symbolRuns

/-- `wave(c)`, tick by tick (R107). -/
def wave (c : Colour) : List Level := expandRuns (waveRuns c)

/-- The number of 1 bits (00_scope.md R16). -/
def popcount {n : Nat} (v : BitVec n) : Nat := (List.range n).countP fun i => v.getLsbD i

/-- `F(c)`, the ticks of the frame of `c` (R107). -/
def frameTicks (c : Colour) : Nat :=
  288 + popcount (redOf c) + popcount (greenOf c) + popcount (blueOf c)

end Sys2Proof.Machine
end

