-- ==== Sys2Proof/Machine/Ops.lean ====
section
/-! DEFINITION. The shared operations: results, the inputs of the tick, the symbol memory, taking a fault and
leaving it (reset), the generator's position and its tick. -/

namespace Sys2Proof.Machine

/-! ### Results of an operation -/

/-- The outcome of an operation or of a step. -/
abbrev Result := Host.Outcome State Fault Refusal

/-- The next state, where there is one. -/
def Result.next? (r : Result) : Option State :=
  match r with
  | .next s => some s
  | .fault _ => none
  | .refused _ => none

/-- Go on with the rest of a tick's pseudocode, unless the operation raised: "`raise` ends the step"
(41_transmitter.md R121). No operation runs in FAULT, so `seq = FAULT` after one says that it raised. -/
def Result.andThen (r : Result) (rest : State → Result) : Result :=
  match r with
  | .next s => if s.seq = .fault then .next s else rest s
  | .fault f => .fault f
  | .refused f => .refused f

/-- Apply a state change to a next state. -/
def Result.mapNext (f : State → State) (r : Result) : Result :=
  match r with
  | .next s => .next (f s)
  | .fault x => .fault x
  | .refused x => .refused x

/-! ### The inputs of the tick -/

/-- The free inputs of a tick that no schedule gives (log 4). -/
def TickInput.free (tick : Nat) : TickInput where
  rst := Config.freeRst tick
  cmdValid := Config.freeCmdValid tick
  cmdWord := Config.freeCmdWord tick
  initLatency := Config.freeInitLatencyLessOne tick + 1
  configureOk := Config.freeConfigureOk tick
  copyEncOk := Config.freeCopyEncOk tick
  enableOk := Config.freeEnableOk tick
  txOk := Config.freeTxOk tick
  waitErr := Config.freeWaitErr tick
  initLatency_pos := Nat.le_add_left 1 _

/-- The inputs of the tick `k` ticks from now. -/
def State.inputAt (s : State) (k : Nat) : TickInput :=
  match s.inputs[k]? with
  | some x => x
  | none => TickInput.free (s.tick + k)

/-- The inputs and draws of this tick (10_state.md R21, R23). -/
def State.input (s : State) : TickInput := s.inputAt 0

/-- The end of a tick: its inputs are gone. -/
def endTick (s : State) : State := { s with inputs := s.inputs.tail, tick := s.tick + 1 }

/-! ### The symbol memory (20_memory.md R50 to R55) -/

/-- The canonical form: indices strictly rising. What an unlisted entry holds is free, so no listed entry is known to
be redundant. -/
abbrev SymMem.wf (m : SymMem) : Prop := m.Pairwise fun a b => a.1 < b.1

/-- What has been written at an index since reset, if anything. -/
def SymMem.read (m : SymMem) (i : Nat) : Option Symbol :=
  match m with
  | [] => none
  | (j, e) :: m => if i = j then some e else SymMem.read m i

/-- The record that reset leaves in an entry of SYM: any value (10_state.md R49, log 5). -/
def Symbol.free (reset i : Nat) : Symbol where
  level0 := Config.freeSymbolLevel0 reset i
  duration0 := Config.freeSymbolDuration0 reset i
  level1 := Config.freeSymbolLevel1 reset i
  duration1 := Config.freeSymbolDuration1 reset i

/-- The record that an entry holds: the one written last, or the one that this reset left there. -/
def SymMem.record (m : SymMem) (reset i : Nat) : Symbol :=
  match m.read i with
  | some e => e
  | none => Symbol.free reset i

/-- `SYM[i]`, the record that entry `i` holds: every entry holds one in every state (10_state.md R31). -/
def State.symbolAt (s : State) (i : Nat) : Symbol := s.sym.record s.symReset i

/-- Replace or insert one whole record, keeping the canonical form. -/
def SymMem.write (m : SymMem) (i : Nat) (e : Symbol) : SymMem :=
  match m with
  | [] => [(i, e)]
  | (j, x) :: m =>
    if i < j then (i, e) :: (j, x) :: m
    else if i = j then (i, e) :: m
    else (j, x) :: SymMem.write m i e

/-- What MemRead and MemWrite require: `0 <= i < 24 <= SYMBOL_CAPACITY` (R52), said for all of the frame's indices at
once. -/
def frameFits (cfg : Config.Params) : Bool := decide (FRAME_SYMBOLS ≤ cfg.symbolCapacity)

/-- ENCODE's 24 writes of the frame of `c`, in the order of the loops of 40_encoder.md R108. -/
def writeFrame (c : Colour) (m : SymMem) : SymMem :=
  [0, 1, 2].foldl (fun m ch =>
    [7, 6, 5, 4, 3, 2, 1, 0].foldl (fun m k =>
      SymMem.write m (position ch k) (symbolOf ((wireChannel c ch).getLsbD k))) m) m

/-! ### Taking a fault, and reset -/

/-- Every class and sub-cause of 60_exceptions.md R170 to R174. -/
inductive Cause where
  | resourceUnavailable
  | configRejected
  | encoderUnavailable
  | enableFailed
  | alreadyInitialized
  | submitRejected
  | notInitialized
  | waitFailed
  | timeout
  | reservedOpcode
  | reservedBits
deriving DecidableEq, Repr

/-- FAULT_CODE (R170): 1 PeripheralInitError, 2 TransmitError, 3 WaitTimeoutError, 4 IllegalCommand. -/
def Cause.code : Cause → Nibble
  | .resourceUnavailable => 1#4
  | .configRejected => 1#4
  | .encoderUnavailable => 1#4
  | .enableFailed => 1#4
  | .alreadyInitialized => 1#4
  | .submitRejected => 2#4
  | .notInitialized => 2#4
  | .waitFailed => 2#4
  | .timeout => 3#4
  | .reservedOpcode => 4#4
  | .reservedBits => 4#4

/-- FAULT_SUB (R171 to R174). -/
def Cause.sub : Cause → Nibble
  | .resourceUnavailable => 1#4
  | .configRejected => 2#4
  | .encoderUnavailable => 3#4
  | .enableFailed => 4#4
  | .alreadyInitialized => 5#4
  | .submitRejected => 1#4
  | .notInitialized => 2#4
  | .waitFailed => 3#4
  | .timeout => 1#4
  | .reservedOpcode => 1#4
  | .reservedBits => 2#4

/-- The cause of an illegal command word (R174). -/
def Cause.ofIllegal : IllegalSub → Cause
  | .reservedOpcode => .reservedOpcode
  | .reservedBits => .reservedBits

/-- `raise Fault(code, sub)` (R180). What it does not name keeps the value the step gave it (R179). -/
def raise (x : Cause) (s : State) : State :=
  { s with
    seq := .fault
    faultCode := x.code
    faultSub := x.sub
    genState := .gIdle
    genStartCnt := 0
    symIdx := 0#5
    half := false
    elapsed := 0#16
    qCount := 0
    initCnt := 0
    waitCnt := 0
    holdCnt := 0 }

/-- A reset tick (70_reset_and_hazards.md R200): RESET_STATE, the only way out of FAULT (60_exceptions.md R182).
The parameters are not state (10_state.md R44) and the schedule is the outside's: they stay (log 13). What SYM then
holds is free anew: the reset is numbered by the tick that follows it, so no two resets of a run share a number (log 5). -/
def resetBlock (s : State) : State :=
  { State.resetOf s.cfg s.inputs s.tick with symReset := s.tick + 1 }

/-! ### The pulse generator -/

/-- PARAMS_LEGAL (42_peripheral.md R143). -/
def paramsLegal (cfg : Config.Params) : Bool :=
  cfg.validPins.contains cfg.pin
    && cfg.resolutionHz == LEGAL_RESOLUTION_HZ
    && decide (FRAME_SYMBOLS ≤ cfg.symbolCapacity)
    && decide (1 ≤ cfg.queueDepth)

/-- Begin symbol 0: `gen_state <- G_RUN; sym_idx <- 0; half <- 0; elapsed <- 0` (R145, R147). -/
def beginFrame (s : State) : State :=
  { s with genState := .gRun, symIdx := 0#5, half := false, elapsed := 0#16 }

/-- COMPLETE (R151). `q_count - 1` is at least 0: with `q_count = 0`, which no reachable state has in TX, it
stays 0 (log 16). -/
def completeFrame (s : State) : State :=
  { s with
    genState := .gIdle
    symIdx := 0#5
    half := false
    elapsed := 0#16
    qCount := s.qCount - 1
    waitCnt := 0
    seq := .hold
    holdCnt := s.cfg.resetHoldTicks }

/-- One tick of a record `e` in G_RUN (R147). The comparison is on natural numbers, so nothing wraps. -/
def runTick (e : Symbol) (s : State) : State :=
  if s.elapsed.toNat + 1 < e.halfTicks s.half then { s with elapsed := s.elapsed + 1#16 }
  else if s.half = false then { s with elapsed := 0#16, half := true }
  else if s.symIdx.toNat < 23 then
    { s with elapsed := 0#16, symIdx := s.symIdx + 1#5, half := false }
  else completeFrame s

/-- One tick of G_START (R147). -/
def startTick (s : State) : State :=
  if 1 < s.genStartCnt then { s with genStartCnt := s.genStartCnt - 1 }
  else beginFrame { s with genStartCnt := 0 }

/-- GEN_ADVANCE (R147). The pseudocode has no case for G_IDLE: nothing changes (log 12). A record that is not
ONE or ZERO is refused (30_encoding.md R85, log 6); MemRead has no index above 23 and needs a SYM of 24 entries
(20_memory.md R52, log 8). -/
def genAdvance (s : State) : Result :=
  match s.genState with
  | .gIdle => .next s
  | .gStart => .next (startTick s)
  | .gRun =>
    if frameFits s.cfg && decide (s.symIdx.toNat < FRAME_SYMBOLS) then
      if (s.symbolAt s.symIdx.toNat).legal then .next (runTick (s.symbolAt s.symIdx.toNat) s)
      else .refused .illegalSymbol
    else .fault .symIndexOutOfRange

/-- Whether the finite wait window has run out: `wait_cnt >= WAIT_TIMEOUT_TICKS` (R152, R153). -/
def timedOut (s : State) : Bool :=
  match s.cfg.waitTimeoutTicks with
  | none => false
  | some t => decide (t ≤ s.waitCnt)

end Sys2Proof.Machine
end

