-- ==== Sys2Proof/Machine/Encoder.lean ====
section
/-! DEFINITION. The ENCODER's operation. -/

namespace Sys2Proof.Machine

/-- ENCODE (40_encoder.md R108): the 24 writes of the frame of the latched colour, in one tick. It raises nothing.
MemWrite requires a SYM of at least 24 entries (20_memory.md R52); a smaller one has no such entries (log 8). -/
def execEncode (s : State) : Result :=
  if frameFits s.cfg then .next { s with sym := writeFrame s.color s.sym }
  else .fault .symIndexOutOfRange

end Sys2Proof.Machine
end

