-- ==== Sys2Proof/Machine/Peripheral.lean ====
section
/-! DEFINITION. The PULSE GENERATOR's internal operations. -/

namespace Sys2Proof.Machine

/-- CONFIGURE (42_peripheral.md R140): legality first, then the draw. -/
def execConfigure (s : State) : Result :=
  if paramsLegal s.cfg = false then .next (raise .configRejected s)
  else if s.input.configureOk = false then .next (raise .resourceUnavailable s)
  else .next { s with chanAlloc := true }

/-- CREATE_COPY_ENCODER (R141). -/
def execCreateCopyEncoder (s : State) : Result :=
  if s.input.copyEncOk = false then .next (raise .encoderUnavailable s)
  else .next { s with copyEnc := true }

/-- ENABLE (R142). -/
def execEnable (s : State) : Result :=
  if s.input.enableOk = false then .next (raise .enableFailed s)
  else .next { s with chanEn := true }

/-- The transaction enters the queue and the generator starts (R145). -/
def submit (s : State) : State :=
  if s.cfg.startLatencyTicks = 0 then beginFrame { s with qCount := s.qCount + 1 }
  else
    { s with
      qCount := s.qCount + 1
      genState := .gStart
      genStartCnt := s.cfg.startLatencyTicks }

/-- TRANSMIT (R145). A loop count other than 1 (R150) and a full queue (R146) are refused, as the spec says a
model must (log 7). -/
def execTransmit (loopCount : Nat) (s : State) : Result :=
  if loopCount ≠ LOOP_COUNT then .refused .loopCountNotOne
  else if s.cfg.queueDepth ≤ s.qCount then .refused .queueFull
  else if s.input.txOk = false then .next (raise .submitRejected s)
  else .next (submit s)

/-- WAIT_COMPLETE, one TX tick (R152): the wait error, then the timeout (R153), then the generator. -/
def execWaitComplete (s : State) : Result :=
  if s.input.waitErr then .next (raise .waitFailed s)
  else if timedOut s then .next (raise .timeout s)
  else genAdvance { s with waitCnt := s.waitCnt + 1 }

/-- HOLD_LOW, one HOLD tick (R155). -/
def execHoldLow (s : State) : Result :=
  if 1 < s.holdCnt then .next { s with holdCnt := s.holdCnt - 1 }
  else .next { s with holdCnt := 0, seq := .idle }

end Sys2Proof.Machine
end

