-- ==== Sys2Proof/Machine/Commands.lean ====
section
/-! DEFINITION. The two host commands. -/

namespace Sys2Proof.Machine

/-- INIT_ACCEPT (41_transmitter.md R123). -/
def initAccept (s : State) : State :=
  { s with seq := .initBusy, initCnt := s.input.initLatency }

/-- INIT: accepted in UNINIT (R123); a second INIT, in IDLE, faults (R126); where `cmd_ready = 0` it is held and
has no effect of its own (10_state.md R22, log 10). -/
def execInit (s : State) : Result :=
  match s.seq with
  | .uninit => .next (initAccept s)
  | .idle => .next (raise .alreadyInitialized s)
  | .initBusy => .next s
  | .tx => .next s
  | .hold => .next s
  | .fault => .next s

/-- SEND_ACCEPT (R127): latch the colour, ENCODE, TRANSMIT, then TX. -/
def sendAccept (r g b : Channel) (s : State) : Result :=
  Result.andThen (execEncode { s with color := colourOf r g b }) fun s =>
  Result.andThen (execTransmit LOOP_COUNT s) fun s =>
    .next { s with waitCnt := 0, seq := .tx }

/-- SEND: accepted in IDLE (R127); in UNINIT it faults (R128); where `cmd_ready = 0` it is held and has no effect
of its own (10_state.md R22, log 10). -/
def execSend (r g b : Channel) (s : State) : Result :=
  match s.seq with
  | .idle => sendAccept r g b s
  | .uninit => .next (raise .notInitialized s)
  | .initBusy => .next s
  | .tx => .next s
  | .hold => .next s
  | .fault => .next s

end Sys2Proof.Machine
end

