-- ==== Sys2Proof/Machine/Dispatch.lean ====
section
/-! DEFINITION. One arm per instruction. -/

namespace Sys2Proof.Machine

def exec (i : Instr) (s : State) : Host.Outcome State Fault Refusal :=
  match i with
  | .init => Sys2Proof.Machine.execInit s
  | .send r g b => Sys2Proof.Machine.execSend r g b s
  | .encode => Sys2Proof.Machine.execEncode s
  | .configure => Sys2Proof.Machine.execConfigure s
  | .createCopyEncoder => Sys2Proof.Machine.execCreateCopyEncoder s
  | .enable => Sys2Proof.Machine.execEnable s
  | .transmit loopCount => Sys2Proof.Machine.execTransmit loopCount s
  | .waitComplete => Sys2Proof.Machine.execWaitComplete s
  | .holdLow => Sys2Proof.Machine.execHoldLow s

end Sys2Proof.Machine
end

