-- ==== Sys2Proof/Machine/Flags.lean ====
section
/-! DEFINITION. The outputs of the BLOCK: the codes of its named states, `cmd_ready`, the line and the STATUS
word with its flags. -/

namespace Sys2Proof.Machine

/-- The codes of `seq` (10_state.md R26). -/
def Seq.code : Seq → Nibble
  | .uninit => 0x0#4
  | .initBusy => 0x1#4
  | .idle => 0x2#4
  | .tx => 0x3#4
  | .hold => 0x4#4
  | .fault => 0xF#4

/-- The codes of `gen_state` (R35). -/
def GenState.code : GenState → Nat
  | .gIdle => 0
  | .gStart => 1
  | .gRun => 2

/-- `cmd_ready` (R41). -/
def cmdReady (s : State) : Bool :=
  match s.seq with
  | .uninit => true
  | .idle => true
  | .initBusy => false
  | .tx => false
  | .hold => false
  | .fault => false

/-- A command is accepted (R22). -/
def accepted (s : State) : Bool := s.input.cmdValid && cmdReady s

/-- The level of the half of the record under the generator (R37), whatever the record is. -/
def symbolLevel (s : State) : Level := (s.symbolAt s.symIdx.toNat).halfLevel s.half

/-- The line level `dout` (R37). -/
def dout (s : State) : Level :=
  match s.seq, s.genState with
  | .tx, .gRun => symbolLevel s
  | _, _ => false

/-- What the BLOCK drives on GPIO `PIN`: nothing before CONFIGURE has bound it, then `dout` (R39). -/
def pinDrive (s : State) : Option Level := if s.chanAlloc then some (dout s) else none

/-- The level the reference receiver reads: the pin, low where it is not driven (R39). -/
def lineLevel (s : State) : Level := (pinDrive s).getD false

/-- STATUS.BUSY (R42). -/
def busyFlag (s : State) : Bool :=
  match s.seq with
  | .initBusy => true
  | .tx => true
  | .hold => true
  | .uninit => false
  | .idle => false
  | .fault => false

/-- STATUS.FAULT (R42). -/
def faultFlag (s : State) : Bool :=
  match s.seq with
  | .fault => true
  | .uninit => false
  | .initBusy => false
  | .idle => false
  | .tx => false
  | .hold => false

/-- STATUS.SYM_IDX (R42). -/
def symIdxField (s : State) : BitVec 5 :=
  match s.genState with
  | .gRun => s.symIdx
  | .gIdle => 0#5
  | .gStart => 0#5

/-- STATUS.HALF (R42). -/
def halfFlag (s : State) : Bool :=
  match s.genState with
  | .gRun => s.half
  | .gIdle => false
  | .gStart => false

/-- The STATUS word (R42), most significant field first. -/
def status (s : State) : BitVec 32 :=
  0#9
    ++ BitVec.ofBool (dout s)
    ++ BitVec.ofBool (halfFlag s)
    ++ symIdxField s
    ++ s.seq.code
    ++ s.faultSub
    ++ s.faultCode
    ++ BitVec.ofBool (cmdReady s)
    ++ BitVec.ofBool (faultFlag s)
    ++ BitVec.ofBool (busyFlag s)
    ++ BitVec.ofBool s.initDone

end Sys2Proof.Machine
end

