-- ==== Sys2Proof/Machine/Sequencer.lean ====
section
/-! DEFINITION. The tick of the SEQUENCER: which instructions a tick runs, and the states in which a given code is
the one the next tick runs. Step.lean only calls these. -/

namespace Sys2Proof.Machine

/-- Run operations one after another in one tick; a `raise` ends the step (41_transmitter.md R121). -/
def runOps (is : List Instr) (s : State) : Result :=
  match is with
  | [] => .next s
  | i :: is => Result.andThen (exec i s) (runOps is)

/-- The three configuration operations, in their fixed order (R124). -/
def initOps : List Instr := [.configure, .createCopyEncoder, .enable]

/-- The end of a successful INIT (R124). -/
def initDoneState (s : State) : State := { s with initDone := true, initCnt := 0, seq := .idle }

/-- INIT_COMPLETE (R124). -/
def initComplete (s : State) : Result :=
  Result.andThen (runOps initOps s) fun s => .next (initDoneState s)

/-- One INIT_BUSY tick (R121). -/
def initBusyTick (s : State) : Result :=
  if 1 < s.initCnt then .next { s with initCnt := s.initCnt - 1 } else initComplete s

/-- An accepted command word: decode legality first (R122), then the command's own meaning. -/
def acceptCommand (w : CmdWord) (s : State) : Result :=
  match decodeCommand w with
  | .instr i => exec i s
  | .illegal sub => .next (raise (Cause.ofIllegal sub) s)

/-- A tick of a state that is ready for a command (R121). -/
def readyTick (s : State) : Result :=
  if accepted s then acceptCommand s.input.cmdWord s else .next s

/-- The case on `seq` of R121. -/
def sequencerTick (s : State) : Result :=
  match s.seq with
  | .uninit => readyTick s
  | .initBusy => initBusyTick s
  | .idle => readyTick s
  | .tx => exec .waitComplete s
  | .hold => exec .holdLow s
  | .fault => .next s

/-- The whole tick (R121): reset overrides everything (70_reset_and_hazards.md R200). -/
def tickStep (s : State) : Result :=
  Result.mapNext endTick (if s.input.rst then .next (resetBlock s) else sequencerTick s)

/-! ### The next instruction (log 11) -/

/-- The input of a tick in which the host presents `w`, with every draw at its success value and INIT's latency 1
(42_peripheral.md R158, 95_test_vectors.md's conventions). -/
def TickInput.present (w : CmdWord) : TickInput where
  rst := false
  cmdValid := true
  cmdWord := w
  initLatency := 1
  configureOk := true
  copyEncOk := true
  enableOk := true
  txOk := true
  waitErr := false
  initLatency_pos := by decide

/-- The input of a tick in which the host presents nothing, with every draw at its success value. -/
def TickInput.quiet : TickInput := { TickInput.present 0#32 with cmdValid := false }

/-- `x` is this tick's input; the inputs of later ticks stay. -/
def withInput (x : TickInput) (s : State) : State := { s with inputs := x :: s.inputs.tail }

/-- IDLE after a successful INIT (41_transmitter.md R125). -/
def idleState (s : State) : State :=
  { resetBlock s with
    seq := .idle
    initDone := true
    chanAlloc := true
    copyEnc := true
    chanEn := true
    color := s.color
    sym := s.sym
    symReset := s.symReset }

/-- A machine with the same parameters, schedule and symbol memory that is ready for a command: as it is, if it
is ready; otherwise in IDLE after a successful INIT. -/
def readyState (s : State) : State := if cmdReady s then s else idleState s

/-- The last INIT_BUSY tick: the one that runs CONFIGURE, CREATE_COPY_ENCODER and ENABLE (R124). -/
def lastInitState (s : State) : State := { resetBlock s with seq := .initBusy, initCnt := 1 }

/-- The first TX tick of a SEND of the colour 0 with no start latency: the tick that runs WAIT_COMPLETE. -/
def firstTxState (s : State) : State :=
  beginFrame { idleState s with seq := .tx, qCount := 1, color := 0#24, sym := writeFrame 0#24 s.sym }

/-- The first HOLD tick: the one that runs HOLD_LOW. -/
def firstHoldState (s : State) : State :=
  { idleState s with seq := .hold, holdCnt := s.cfg.resetHoldTicks }

/-- SEND of the colour 0 (30_encoding.md R91, OFF). -/
def offWord : CmdWord := 0x20000000#32

/-- The state whose very next tick runs the instruction that `code` decodes to: a command word is presented on the
port; an internal operation, which no port can select (R89), is reached through the tick that invokes it. -/
def stateRunning (code : Code) (s : State) : State :=
  match code with
  | .command w => withInput (TickInput.present w) (readyState s)
  | .internal c =>
    match decodeInternal c with
    | some .encode => withInput (TickInput.present offWord) (idleState s)
    | some (.transmit _) => withInput (TickInput.present offWord) (idleState s)
    | some .configure => withInput TickInput.quiet (lastInitState s)
    | some .createCopyEncoder => withInput TickInput.quiet (lastInitState s)
    | some .enable => withInput TickInput.quiet (lastInitState s)
    | some .waitComplete => withInput TickInput.quiet (firstTxState s)
    | some .holdLow => withInput TickInput.quiet (firstHoldState s)
    | some .init => s
    | some (.send _ _ _) => s
    | none => s

end Sys2Proof.Machine
end

