-- ==== Sys2Proof/Machine/Step.lean ====
section
/-! DEFINITION. The step: one tick of 100 ns. -/

namespace Sys2Proof.Machine

/-- One tick (41_transmitter.md R121). -/
def step (s : State) : Host.Outcome State Fault Refusal := tickStep s

/-- The state whose next step runs the instruction of an opcode-table word (log 11). -/
def State.withFetchWord (s : State) (nbits w : Nat) : State :=
  match tableCode nbits w with
  | some code => stateRunning code s
  | none => s

end Sys2Proof.Machine
end

