-- ==== Sys2Proof/Machine/Assembler.lean ====
section
/-! DEFINITION. The assembler of 30_encoding.md R90 and R91: one line of text to at most one command word. A line
is a list of characters. What R90 does not fix of the text is log 19. -/

namespace Sys2Proof.Machine

/-- Why a line does not assemble. -/
inductive AsmError where
  | unknownMnemonic
  | wrongOperandCount
  | badNumber
  /-- A value outside 0 to 255: "an assembly error. It is never truncated" (R90). -/
  | outOfRange
deriving DecidableEq, Repr

/-- What a line assembles to. -/
inductive AsmLine where
  /-- A blank line or a comment. -/
  | nothing
  | word (w : CmdWord)
  | error (e : AsmError)
deriving DecidableEq, Repr

def isBlankChar (c : Char) : Bool := c == ' ' || c == '\t' || c == '\r'

/-- A comment starts with `;` (R90). -/
def withoutComment (cs : List Char) : List Char := cs.takeWhile (· != ';')

/-- Without blanks at both ends. -/
def trimBlanks (cs : List Char) : List Char :=
  ((cs.dropWhile isBlankChar).reverse.dropWhile isBlankChar).reverse

/-- Mnemonics are case-insensitive (R90). -/
def upperChar (c : Char) : Char := if 'a' ≤ c ∧ c ≤ 'z' then Char.ofNat (c.toNat - 32) else c

/-- A digit's value, in a base of at most 16. -/
def digitValue (c : Char) : Option Nat :=
  if '0' ≤ c ∧ c ≤ '9' then some (c.toNat - '0'.toNat)
  else if 'a' ≤ c ∧ c ≤ 'f' then some (c.toNat - 'a'.toNat + 10)
  else if 'A' ≤ c ∧ c ≤ 'F' then some (c.toNat - 'A'.toNat + 10)
  else none

/-- The digits of a number after those of value `acc`. -/
def numberFrom (base acc : Nat) : List Char → Option Nat
  | [] => some acc
  | c :: cs =>
    match digitValue c with
    | some d => if d < base then numberFrom base (acc * base + d) cs else none
    | none => none

/-- A number, decimal or with the prefix `0x` (R90). -/
def parseNumber (cs : List Char) : Option Nat :=
  match cs with
  | [] => none
  | '0' :: 'x' :: [] => none
  | '0' :: 'x' :: c :: cs => numberFrom 16 0 (c :: cs)
  | c :: cs => numberFrom 10 0 (c :: cs)

/-- The pieces of a text between commas. -/
def splitCommas : List Char → List (List Char)
  | [] => [[]]
  | c :: cs =>
    if c == ',' then [] :: splitCommas cs
    else
      match splitCommas cs with
      | [] => [[c]]
      | p :: ps => (c :: p) :: ps

/-- The operands of a line: none, or the pieces between commas, without blanks around them. -/
def operandsOf (cs : List Char) : List (List Char) :=
  match trimBlanks cs with
  | [] => []
  | c :: cs => (splitCommas (c :: cs)).map trimBlanks

/-- A channel operand, 0 to 255 (R90). -/
def channelOperand (cs : List Char) : AsmError ⊕ Channel :=
  match parseNumber cs with
  | none => .inl .badNumber
  | some n => if n ≤ 255 then .inr (BitVec.ofNat 8 n) else .inl .outOfRange

/-- The command word of an instruction that has one. -/
def asmWord (i : Instr) : AsmLine :=
  match encode i with
  | .command w => .word w
  | .internal _ => .error .unknownMnemonic

/-- A mnemonic that takes no operand. -/
def asmPlain (i : Instr) (ops : List (List Char)) : AsmLine :=
  match ops with
  | [] => asmWord i
  | _ :: _ => .error .wrongOperandCount

/-- `SEND r, g, b` (R90). -/
def asmSend (ops : List (List Char)) : AsmLine :=
  match ops with
  | [r, g, b] =>
    match channelOperand r, channelOperand g, channelOperand b with
    | .inr r, .inr g, .inr b => asmWord (.send r g b)
    | .inl e, _, _ => .error e
    | .inr _, .inl e, _ => .error e
    | .inr _, .inr _, .inl e => .error e
  | _ => .error .wrongOperandCount

/-- Assemble one line: INIT and SEND (R90), and OFF, GREEN, RED and BLUE, each one SEND (R91). -/
def assembleLine (line : List Char) : AsmLine :=
  let text := trimBlanks (withoutComment line)
  let name := (text.takeWhile fun c => !isBlankChar c).map upperChar
  let ops := operandsOf (text.dropWhile fun c => !isBlankChar c)
  if name = [] then .nothing
  else if name = ['I', 'N', 'I', 'T'] then asmPlain .init ops
  else if name = ['S', 'E', 'N', 'D'] then asmSend ops
  else if name = ['O', 'F', 'F'] then asmPlain (.send 0#8 0#8 0#8) ops
  else if name = ['G', 'R', 'E', 'E', 'N'] then asmPlain (.send 0#8 255#8 0#8) ops
  else if name = ['R', 'E', 'D'] then asmPlain (.send 255#8 0#8 0#8) ops
  else if name = ['B', 'L', 'U', 'E'] then asmPlain (.send 0#8 0#8 255#8) ops
  else .error .unknownMnemonic

end Sys2Proof.Machine
end

