-- ==== Sys2Proof/Machine/HostSide.lean ====
section
/-! DEFINITION. What stands outside the BLOCK: the line as an observer sees it over several ticks, the eager host
that presents a list of command words (41_transmitter.md R136, 92 D39), and the end of a run (R137). -/

namespace Sys2Proof.Machine

/-- `k` ticks. -/
def runTicks (k : Nat) (s : State) : Result :=
  match k with
  | 0 => .next s
  | k + 1 =>
    match step s with
    | .next t => runTicks k t
    | .fault f => .fault f
    | .refused f => .refused f

/-- The line during this tick and the next ones, `k` ticks in all (10_state.md R37); cut where the model stops. -/
def lineTrace (k : Nat) (s : State) : List Level :=
  match k with
  | 0 => []
  | k + 1 =>
    dout s ::
      match step s with
      | .next t => lineTrace k t
      | .fault _ => []
      | .refused _ => []

/-- The host's program still to be presented, beside the BLOCK. -/
structure Driven where
  commands : List CmdWord
  block : State
deriving DecidableEq, Repr

/-- The eager host (92 D39): its next command is presented in every tick until it is accepted; `rst` and the draws
of the tick stay as the schedule gives them. -/
def hostInput (commands : List CmdWord) (x : TickInput) : TickInput :=
  match commands with
  | [] => { x with cmdValid := false, cmdWord := 0#32 }
  | w :: _ => { x with cmdValid := true, cmdWord := w }

/-- One tick of the host and the BLOCK. An accepted command is gone; reset accepts nothing. -/
def hostTick (d : Driven) : Option Driven :=
  let s := withInput (hostInput d.commands d.block.input) d.block
  match step s with
  | .next t =>
    some ⟨if accepted s && !s.input.rst then d.commands.tail else d.commands, t⟩
  | .fault _ => none
  | .refused _ => none

/-- `k` ticks of the host and the BLOCK. -/
def hostRun (k : Nat) (d : Driven) : Option Driven :=
  match k with
  | 0 => some d
  | k + 1 =>
    match hostTick d with
    | some d => hostRun k d
    | none => none

/-- The run of a host program has ended (41_transmitter.md R137). -/
def runEnded (d : Driven) : Bool :=
  d.commands.isEmpty
    && (d.block.seq == .uninit || d.block.seq == .idle || d.block.seq == .fault)

/-- The run ended good (R137). -/
def runGood (d : Driven) : Bool :=
  runEnded d && d.block.seq == .idle && !faultFlag d.block

/-- The run ended bad (R137). -/
def runBad (d : Driven) : Bool := runEnded d && d.block.seq == .fault

end Sys2Proof.Machine
end

