-- ==== Sys2Proof/Machine/Receiver.lean ====
section
/-! DEFINITION. The reference receiver (41_transmitter.md R138): a test observer that reads the line and is no part
of the BLOCK. No rule of the BLOCK reads it, and reset does not touch it (70_reset_and_hazards.md R204). -/

namespace Sys2Proof.Machine

/-- The receiver's state (R138). `highrun`, the length of the high run in progress, is implied: DEDUCED (log 17). -/
structure Receiver where
  /-- The bits of the frame so far, first arrived first. -/
  bits : List Bool
  /-- The colour shown; `none` is UNKNOWN. -/
  latched : Option Colour
  /-- The length of the low run in progress. -/
  lowrun : Nat
  /-- The length of the high run in progress. -/
  highrun : Nat
deriving DecidableEq, Repr

/-- Power-up (R138): UNKNOWN, nothing received. DESIGN CHOICE (log 17): no run is in progress. -/
def Receiver.powerUp : Receiver := ⟨[], none, 0, 0⟩

/-- The bit a maximal high run of `n` ticks stands for: exactly 7 is 1, exactly 4 is 0 (R138). -/
def runBit (n : Nat) : Option Bool :=
  if n = 7 then some true else if n = 4 then some false else none

/-- The wire word of 24 bits in arrival order, the first bit most significant. -/
def wordOfBits (bits : List Bool) : BitVec 24 :=
  BitVec.ofNat 24 (bits.foldl (fun n b => 2 * n + b.toNat) 0)

/-- `{r, g, b}` of the wire word `{g, r, b}` (R138). -/
def colourOfWire (w : BitVec 24) : Colour :=
  colourOf (w.extractLsb' 8 8) (w.extractLsb' 16 8) (w.extractLsb' 0 8)

/-- A high run has ended: its bit is appended, or the frame is spoilt (R138). DESIGN CHOICE (log 17): a 25th bit,
of which R138 says nothing, spoils the frame too. -/
def Receiver.endHighRun (x : Receiver) : Receiver :=
  match runBit x.highrun with
  | some b =>
    if x.bits.length < 24 then { x with bits := x.bits ++ [b], highrun := 0 }
    else { x with bits := [], latched := none, highrun := 0 }
  | none => { x with bits := [], latched := none, highrun := 0 }

/-- One more tick of a low run; at 500 ticks the frame latches, or is lost (R138). -/
def Receiver.lowTick (x : Receiver) : Receiver :=
  if x.lowrun + 1 = LATCH_FLOOR_TICKS then
    match x.bits with
    | [] => { x with lowrun := x.lowrun + 1 }
    | b :: bs =>
      { x with
        lowrun := x.lowrun + 1
        bits := []
        latched := if (b :: bs).length = 24 then some (colourOfWire (wordOfBits (b :: bs))) else none }
  else { x with lowrun := x.lowrun + 1 }

/-- One tick of the line. -/
def Receiver.tick (x : Receiver) (level : Level) : Receiver :=
  if level then { x with highrun := x.highrun + 1, lowrun := 0 }
  else if x.highrun = 0 then x.lowTick
  else x.endHighRun.lowTick

/-- The receiver after a stretch of the line. -/
def Receiver.watch (x : Receiver) (levels : List Level) : Receiver := levels.foldl Receiver.tick x

end Sys2Proof.Machine
end

