-- ==== Sys2Proof/Safety.lean ====
section
/-! DEFINITION. What the claims are about: the states a run can reach, the invariant every step keeps, and the
premise that the peripheral does not fail. -/

namespace Sys2Proof.Machine

/-- Every draw of the tick has its success value (42_peripheral.md R158). -/
def TickInput.noFailure (x : TickInput) : Bool :=
  x.configureOk && x.copyEncOk && x.enableOk && x.txOk && !x.waitErr

/-- NO_PERIPHERAL_FAILURE for the next `k` ticks (R158). -/
def NoPeripheralFailure (k : Nat) (s : State) : Prop :=
  ∀ j < k, (s.inputAt j).noFailure = true

/-- No reset in the next `k` ticks. -/
def NoReset (k : Nat) (s : State) : Prop := ∀ j < k, (s.inputAt j).rst = false

/-- The wait window, where it is finite, is long enough for `k` TX ticks (42_peripheral.md R153). -/
def WaitWindowAtLeast (k : Nat) (s : State) : Prop :=
  ∀ t, s.cfg.waitTimeoutTicks = some t → k ≤ t

/-- The states a run can reach: RESET_STATE with any parameters and any inputs, and what a step makes of one. -/
inductive Reachable : State → Prop where
  | reset (cfg : Config.Params) (inputs : List TickInput) (tick : Nat) :
      Reachable (State.resetOf cfg inputs tick)
  | step {s t : State} (hs : Reachable s) (ht : step s = .next t) : Reachable t

/-- The invariants of 10_state.md R47, in the spec's order. -/
structure SpecInvariant (s : State) : Prop where
  gen_runs_iff_tx : s.genState ≠ .gIdle ↔ s.seq = .tx
  queue_one_iff_tx : (s.qCount = 1 ↔ s.seq = .tx) ∧ (s.seq ≠ .tx → s.qCount = 0)
  run_position : s.genState = .gRun → s.elapsed.toNat ≤ 7 ∧ s.symIdx.toNat ≤ 23
  idle_initialized : s.seq = .idle → s.initDone = true
  uninit_not_initialized : s.seq = .uninit → s.initDone = false
  fault_recorded : s.faultCode ≠ 0#4 ↔ s.seq = .fault

/-- SYM holds the frame of the latched colour, that of the most recent SEND, and nothing else has been written to it
since reset (20_memory.md R53). -/
def HoldsFrame (s : State) : Prop := s.sym = writeFrame s.color []

/-- Before the first SEND after reset nothing has been written: every entry of SYM holds the record, any value, that reset
left there (R49, R54). -/
def NoFrameYet (s : State) : Prop := s.sym = [] ∧ s.color = 0#24

/-- The invariant every step keeps: R47 and what its proof needs, from R28, R30, R34, R35, R36, R48, R53. -/
structure StateInv (s : State) : Prop where
  gen_runs_iff_tx : s.genState ≠ .gIdle ↔ s.seq = .tx
  queue_tx : s.seq = .tx → s.qCount = 1
  queue_empty : s.seq ≠ .tx → s.qCount = 0
  initialized : s.seq = .idle ∨ s.seq = .tx ∨ s.seq = .hold → s.initDone = true
  not_initialized : s.seq = .uninit ∨ s.seq = .initBusy → s.initDone = false
  no_handles : s.seq = .uninit ∨ s.seq = .initBusy → s.chanAlloc = false ∧ s.copyEnc = false ∧ s.chanEn = false
  handles_all : s.initDone = true → s.chanEn = true
  handles_enable : s.chanEn = true → s.copyEnc = true
  handles_encoder : s.copyEnc = true → s.chanAlloc = true
  configured : s.chanAlloc = true → paramsLegal s.cfg = true
  fault_recorded : s.faultCode ≠ 0#4 ↔ s.seq = .fault
  sub_recorded : s.seq ≠ .fault → s.faultSub = 0#4
  init_cnt_idle : s.seq ≠ .initBusy → s.initCnt = 0
  init_cnt_busy : s.seq = .initBusy → 1 ≤ s.initCnt
  hold_cnt_idle : s.seq ≠ .hold → s.holdCnt = 0
  hold_cnt_busy : s.seq = .hold → 1 ≤ s.holdCnt ∧ s.holdCnt ≤ s.cfg.resetHoldTicks
  wait_cnt_idle : s.seq ≠ .tx → s.waitCnt = 0
  start_cnt_idle : s.genState ≠ .gStart → s.genStartCnt = 0
  start_cnt_busy : s.genState = .gStart → 1 ≤ s.genStartCnt ∧ s.genStartCnt ≤ s.cfg.startLatencyTicks
  position_idle : s.genState ≠ .gRun → s.symIdx = 0#5 ∧ s.half = false ∧ s.elapsed = 0#16
  position_run : s.genState = .gRun →
    s.symIdx.toNat ≤ 23 ∧ s.elapsed.toNat < (frameSymbol s.color s.symIdx.toNat).halfTicks s.half
  frame : NoFrameYet s ∨ HoldsFrame s
  frame_sent : s.seq = .tx ∨ s.seq = .hold → HoldsFrame s

end Sys2Proof.Machine
end

