-- ==== Sys2Proof/Certificates/Slice0/Obligations.lean ====
section
/-! DEFINITION. The statements for the provers. Each says which rule of spec/ it formalises; OBLIGATIONS.json lists
them. A next state is written as the whole state, so that every field not named is stated unchanged. -/

open Sys2Proof Sys2Proof.Machine

/-! ### Encodings (30_encoding.md) -/

/-- Words written out from the tables of R76 to R79 and R88 decode to what they stand for. -/
def Obligations.SpecWordsDecode : Prop :=
  decode (.command 0x10000000#32) = .ok .init ∧
  decode (.command 0x20123456#32) = .ok (.send 0x12#8 0x34#8 0x56#8) ∧
  decode (.command 0x2000FF00#32) = .ok (.send 0x00#8 0xFF#8 0x00#8) ∧
  decode (.internal 0x1#4) = .ok .encode ∧
  decode (.internal 0x2#4) = .ok .configure ∧
  decode (.internal 0x3#4) = .ok .createCopyEncoder ∧
  decode (.internal 0x4#4) = .ok .enable ∧
  decode (.internal 0x5#4) = .ok (.transmit 1) ∧
  decode (.internal 0x6#4) = .ok .waitComplete ∧
  decode (.internal 0x7#4) = .ok .holdLow ∧
  decode (.command 0x00000000#32) = .reservedOpcode ∧
  decode (.command 0x21000000#32) = .reservedBits ∧
  decode (.command 0x10000001#32) = .reservedBits

/-- R78: INIT is one word; the INIT opcode with any bit of [27:0] set is illegal. -/
def Obligations.InitIsTheOneWord : Prop :=
  (∀ w : CmdWord, decodeCommand w = .instr .init ↔ w = 0x10000000#32) ∧
  (∀ w : CmdWord, w.extractLsb' 28 4 = 0x1#4 → w.extractLsb' 0 28 ≠ 0#28 →
    decodeCommand w = .illegal .reservedBits)

/-- R79, with the operand bytes of section 1: exactly the words that match 0x20000000 under the mask 0xFF000000 are SEND, whatever [23:0] holds,
and the operands are the bytes [23:16], [15:8] and [7:0] as they are. -/
def Obligations.SendIsEveryMaskedWord : Prop :=
  (∀ w : CmdWord, w &&& 0xFF000000#32 = 0x20000000#32 ↔ ∃ r g b, decodeCommand w = .instr (.send r g b)) ∧
  (∀ w : CmdWord, ∀ r g b : Channel, decodeCommand w = .instr (.send r g b) →
    r = w.extractLsb' 16 8 ∧ g = w.extractLsb' 8 8 ∧ b = w.extractLsb' 0 8 ∧ w = 0x20#8 ++ r ++ g ++ b)

/-- R83: every 32-bit word is INIT, SEND or illegal, each in exactly its own case. -/
def Obligations.EveryWordIsInitSendOrIllegal : Prop :=
  ∀ w : CmdWord,
    (w = 0x10000000#32 ∧ decodeCommand w = .instr .init) ∨
    (∃ r g b : Channel, w = 0x20#8 ++ r ++ g ++ b ∧ decodeCommand w = .instr (.send r g b)) ∨
    ((w.extractLsb' 28 4 = 0x1#4 ∧ w.extractLsb' 0 28 ≠ 0#28 ∨
        w.extractLsb' 28 4 = 0x2#4 ∧ w.extractLsb' 24 4 ≠ 0#4) ∧
      decodeCommand w = .illegal .reservedBits) ∨
    (w.extractLsb' 28 4 ≠ 0x1#4 ∧ w.extractLsb' 28 4 ≠ 0x2#4 ∧
      decodeCommand w = .illegal .reservedOpcode)

/-- Decoding what the encoder writes for a well-formed instruction gives the instruction back. -/
def Obligations.EncodeThenDecodeIsIdentity : Prop :=
  ∀ i : Instr, i.wellFormed = true → decode (encode i) = .ok i

/-- Whatever code decodes, encoding the instruction gives exactly that code back, and the instruction is
well-formed: no code has two meanings and no meaning two codes. -/
def Obligations.DecodeThenEncodeIsIdentity : Prop :=
  ∀ (code : Code) (i : Instr), decode code = .ok i → encode i = code ∧ i.wellFormed = true

/-- The assembler of 30_encoding.md section 5: `SEND r, g, b`, the mnemonic in any case and each value in decimal or with
the prefix `0x`, gives 0x20RRGGBB where each value is 0 to 255; a value above 255 is an error and is never truncated.
`INIT` gives 0x10000000 and takes no operand. A comment changes nothing. (The blanks, the small `x` and the names of the
errors are the model's, log 19.) -/
def Obligations.SendLineAssembles : Prop :=
  let number (hex : Bool) (n : Nat) : List Char :=
    if hex then ['0', 'x'] ++ Nat.toDigits 16 n else Nat.toDigits 10 n
  (∀ (name : List Char) (hr hg hb : Bool) (r g b : Nat), name.map Char.toUpper = ['S', 'E', 'N', 'D'] →
    let line := name ++ [' '] ++ number hr r ++ [',', ' '] ++ number hg g ++ [',', ' '] ++ number hb b
    (r ≤ 255 ∧ g ≤ 255 ∧ b ≤ 255 →
      assembleLine line = .word (0x20#8 ++ BitVec.ofNat 8 r ++ BitVec.ofNat 8 g ++ BitVec.ofNat 8 b)) ∧
    (255 < r ∨ 255 < g ∨ 255 < b → assembleLine line = .error .outOfRange)) ∧
  (∀ name : List Char, name.map Char.toUpper = ['I', 'N', 'I', 'T'] →
    assembleLine name = .word 0x10000000#32 ∧
    ∀ (h : Bool) (n : Nat), assembleLine (name ++ [' '] ++ number h n) = .error .wrongOperandCount) ∧
  (∀ line comment : List Char, assembleLine (line ++ [';'] ++ comment) = assembleLine line)

/-- R91: each pseudo-instruction expands to its one SEND word. -/
def Obligations.PseudoInstructionsExpand : Prop :=
  assembleLine ['O', 'F', 'F'] = .word 0x20000000#32 ∧
  assembleLine ['G', 'R', 'E', 'E', 'N'] = .word 0x2000FF00#32 ∧
  assembleLine ['R', 'E', 'D'] = .word 0x20FF0000#32 ∧
  assembleLine ['B', 'L', 'U', 'E'] = .word 0x200000FF#32 ∧
  decodeCommand 0x20000000#32 = .instr (.send 0#8 0#8 0#8) ∧
  decodeCommand 0x2000FF00#32 = .instr (.send 0#8 255#8 0#8) ∧
  decodeCommand 0x20FF0000#32 = .instr (.send 255#8 0#8 0#8) ∧
  decodeCommand 0x200000FF#32 = .instr (.send 0#8 0#8 255#8)

/-! ### The ENCODER (40_encoder.md) -/

/-- R87, R101: ENCODE runs wherever SYM has 24 entries. Bit `k` of wire channel `ch` (green, red, blue) is at
position `ch*8 + (7-k)`, ONE = (1, 7, 0, 6) for a 1 and ZERO = (1, 4, 0, 8) for a 0; position `p` carries bit `23-p`
of `{g, r, b}`. Every other entry and every other field is unchanged. -/
def Obligations.EncodeWritesTheFrame : Prop :=
  ∀ s : State, 24 ≤ s.cfg.symbolCapacity →
    ∃ (m : SymMem) (t : State), exec .encode s = .next t ∧ t = { s with sym := m } ∧
      (∀ k < 8,
        t.symbolAt (0 * 8 + (7 - k)) =
          (if (s.color.extractLsb' 8 8).getLsbD k then ⟨true, 7#16, false, 6#16⟩ else ⟨true, 4#16, false, 8#16⟩) ∧
        t.symbolAt (1 * 8 + (7 - k)) =
          (if (s.color.extractLsb' 16 8).getLsbD k then ⟨true, 7#16, false, 6#16⟩ else ⟨true, 4#16, false, 8#16⟩) ∧
        t.symbolAt (2 * 8 + (7 - k)) =
          (if (s.color.extractLsb' 0 8).getLsbD k then ⟨true, 7#16, false, 6#16⟩ else ⟨true, 4#16, false, 8#16⟩)) ∧
      (∀ p < 24,
        t.symbolAt p =
          (if (s.color.extractLsb' 8 8 ++ s.color.extractLsb' 16 8 ++ s.color.extractLsb' 0 8).getLsbD (23 - p)
            then ⟨true, 7#16, false, 6#16⟩ else ⟨true, 4#16, false, 8#16⟩)) ∧
      (∀ p, 24 ≤ p → t.symbolAt p = s.symbolAt p)

/-- The model's choice (log 8), from MemWrite's requirement in 20_memory.md section 1: ENCODE into a SYM of fewer
than 24 entries stops. -/
def Obligations.EncodeStopsBelowCapacity : Prop :=
  ∀ s : State, s.cfg.symbolCapacity < 24 → exec .encode s = .fault .symIndexOutOfRange

/-- R109: two ENCODEs of the same colour write identical SYM[0..23], whatever state the BLOCK is in. -/
def Obligations.EncodeDependsOnColourAlone : Prop :=
  ∀ s s' t t' : State, s.color = s'.color → exec .encode s = .next t → exec .encode s' = .next t' →
    ∀ p < 24, t.symbolAt p = t'.symbolAt p

/-- R110: distinct colours give distinct frames; position `p` is ONE exactly when bit `23-p` of `{g, r, b}` is 1; the
reorder is a bijection. -/
def Obligations.DistinctColoursGiveDistinctFrames : Prop :=
  (∀ c d : Colour, frameList c = frameList d → c = d) ∧
  (∀ (c : Colour) (p : Nat), p < 24 →
    ((frameList c)[p]? = some Symbol.one ↔
      (c.extractLsb' 8 8 ++ c.extractLsb' 16 8 ++ c.extractLsb' 0 8).getLsbD (23 - p) = true)) ∧
  Function.Bijective (fun c : Colour => c.extractLsb' 8 8 ++ c.extractLsb' 16 8 ++ c.extractLsb' 0 8)

/-- R111 and R106: exactly 24 pulses; positions 0..7 carry green, 8..15 red, 16..23 blue, most significant bit first;
a 1 is high 7 and low 6 ticks, a 0 is high 4 and low 8. The frame is what ENCODE leaves in SYM. -/
def Obligations.FrameIsGreenRedBlueMsbFirst : Prop :=
  ∀ c : Colour,
    (frameList c).length = 24 ∧
    (∀ j < 8,
      (frameList c)[j]? = some (symbolOf ((c.extractLsb' 8 8).getLsbD (7 - j))) ∧
      (frameList c)[8 + j]? = some (symbolOf ((c.extractLsb' 16 8).getLsbD (7 - j))) ∧
      (frameList c)[16 + j]? = some (symbolOf ((c.extractLsb' 0 8).getLsbD (7 - j)))) ∧
    symbolOf true = ⟨true, 7#16, false, 6#16⟩ ∧ symbolOf false = ⟨true, 4#16, false, 8#16⟩ ∧
    (∀ s : State, s.color = c → 24 ≤ s.cfg.symbolCapacity →
      ∃ t, exec .encode s = .next t ∧ ∀ p < 24, (frameList c)[p]? = some (t.symbolAt p))

/-- The frame waveform of 40_encoder.md section 1: `H7 L6` for a 1 and `H4 L8` for a 0, and its length
`F(c) = 288 + popcount(w) = 288 + popcount(r) + popcount(g) + popcount(b)`, 288 to 312 ticks. -/
def Obligations.FrameWaveformAndLength : Prop :=
  ∀ c : Colour,
    wave c = (List.range 24).flatMap (fun p =>
      if (wireWord c).getLsbD (23 - p) then List.replicate 7 true ++ List.replicate 6 false
      else List.replicate 4 true ++ List.replicate 8 false) ∧
    (wave c).length = 288 + popcount (wireWord c) ∧
    frameTicks c = 288 + popcount (wireWord c) ∧
    288 ≤ frameTicks c ∧ frameTicks c ≤ 312

/-! ### The configuration operations and INIT (42_peripheral.md, 41_transmitter.md) -/

/-- R143: the legal configuration, and no machine has a hold below 500 ticks. -/
def Obligations.LegalConfiguration : Prop :=
  (∀ cfg : Config.Params,
    paramsLegal cfg = true ↔
      cfg.pin ∈ cfg.validPins ∧ cfg.resolutionHz = 10000000 ∧ 24 ≤ cfg.symbolCapacity ∧ 1 ≤ cfg.queueDepth) ∧
  (∀ cfg : Config.Params, 500 ≤ cfg.resetHoldTicks)

/-- CONFIGURE (42_peripheral.md section 1): it allocates the channel; an illegal parameter is rejected whatever the
draw; an unavailable resource faults. -/
def Obligations.ConfigureAllocatesTheChannel : Prop :=
  ∀ s : State,
    (paramsLegal s.cfg = true → s.input.configureOk = true →
      exec .configure s = .next { s with chanAlloc := true }) ∧
    (paramsLegal s.cfg = false → exec .configure s = .next (raise .configRejected s)) ∧
    (paramsLegal s.cfg = true → s.input.configureOk = false →
      exec .configure s = .next (raise .resourceUnavailable s))

/-- CREATE_COPY_ENCODER and ENABLE (42_peripheral.md section 1): each sets its own handle bit, or faults. -/
def Obligations.CopyEncoderAndEnableSetTheirHandles : Prop :=
  ∀ s : State,
    (s.input.copyEncOk = true → exec .createCopyEncoder s = .next { s with copyEnc := true }) ∧
    (s.input.copyEncOk = false → exec .createCopyEncoder s = .next (raise .encoderUnavailable s)) ∧
    (s.input.enableOk = true → exec .enable s = .next { s with chanEn := true }) ∧
    (s.input.enableOk = false → exec .enable s = .next (raise .enableFailed s))

/-- INIT accepted in UNINIT (41_transmitter.md section 2): INIT_BUSY, for as many ticks as the draw says. -/
def Obligations.InitAcceptedInUninit : Prop :=
  ∀ s : State, s.seq = .uninit →
    exec .init s = .next { s with seq := .initBusy, initCnt := s.input.initLatency }

/-- R124: the last INIT_BUSY tick, in every case. The three operations run in their order; a handle bit set before a
failure stays set; INIT is complete when none fails. -/
def Obligations.LastInitTickRunsTheThreeOperations : Prop :=
  ∀ s : State, s.seq = .initBusy → s.initCnt = 1 → s.input.rst = false →
    (paramsLegal s.cfg = false → step s = .next (endTick (raise .configRejected s))) ∧
    (paramsLegal s.cfg = true → s.input.configureOk = false →
      step s = .next (endTick (raise .resourceUnavailable s))) ∧
    (paramsLegal s.cfg = true → s.input.configureOk = true → s.input.copyEncOk = false →
      step s = .next (endTick (raise .encoderUnavailable { s with chanAlloc := true }))) ∧
    (paramsLegal s.cfg = true → s.input.configureOk = true → s.input.copyEncOk = true →
      s.input.enableOk = false →
      step s = .next (endTick (raise .enableFailed { s with chanAlloc := true, copyEnc := true }))) ∧
    (paramsLegal s.cfg = true → s.input.configureOk = true → s.input.copyEncOk = true →
      s.input.enableOk = true →
      step s = .next (endTick
        { s with
          chanAlloc := true
          copyEnc := true
          chanEn := true
          initDone := true
          initCnt := 0
          seq := .idle }))

/-- R125, with the latency of R123: an INIT accepted in UNINIT is busy for exactly `init_latency` ticks, then the
BLOCK is in IDLE with init_done and every handle set, nothing queued, the generator idle, and the line has carried no
pulse. -/
def Obligations.InitTakesItsLatency : Prop :=
  ∀ s : State, StateInv s → s.seq = .uninit → s.input.cmdValid = true →
    decodeCommand s.input.cmdWord = .instr .init → paramsLegal s.cfg = true →
    NoReset (s.input.initLatency + 1) s → NoPeripheralFailure (s.input.initLatency + 1) s →
    (∀ k, 1 ≤ k → k ≤ s.input.initLatency →
      ∃ t, runTicks k s = .next t ∧ t.seq = .initBusy ∧ t.initCnt = s.input.initLatency + 1 - k) ∧
    (∃ t, runTicks (s.input.initLatency + 1) s = .next t ∧ t.seq = .idle ∧ t.initDone = true ∧ t.chanAlloc = true ∧
      t.copyEnc = true ∧ t.chanEn = true ∧ t.qCount = 0 ∧ t.genState = .gIdle ∧ dout t = false) ∧
    lineTrace (s.input.initLatency + 1) s = List.replicate (s.input.initLatency + 1) false

/-- R126: an INIT accepted in IDLE faults with ALREADY_INITIALIZED; one presented in INIT_BUSY, TX, HOLD or FAULT is
not accepted. -/
def Obligations.SecondInitFaults : Prop :=
  ∀ s : State, s.input.rst = false → s.input.cmdValid = true → decodeCommand s.input.cmdWord = .instr .init →
    (s.seq = .idle →
      step s = .next (endTick (raise .alreadyInitialized s)) ∧ (raise .alreadyInitialized s).faultCode = 1#4 ∧
        (raise .alreadyInitialized s).faultSub = 5#4) ∧
    (s.seq = .initBusy ∨ s.seq = .tx ∨ s.seq = .hold ∨ s.seq = .fault → accepted s = false)

/-! ### SEND and TRANSMIT -/

/-- SEND accepted in IDLE (41_transmitter.md section 3): the colour is latched, the frame written, the transaction
queued and the generator started; everything else is unchanged. -/
def Obligations.SendAcceptedInIdle : Prop :=
  ∀ (r g b : Channel) (s : State), s.seq = .idle → 24 ≤ s.cfg.symbolCapacity → s.qCount < s.cfg.queueDepth →
    s.input.txOk = true →
    ∃ m : SymMem,
      (∀ p < 24, ({ s with sym := m } : State).symbolAt p = symbolOf ((g ++ r ++ b).getLsbD (23 - p))) ∧
      (∀ p, 24 ≤ p → ({ s with sym := m } : State).symbolAt p = s.symbolAt p) ∧
      (s.cfg.startLatencyTicks = 0 →
        exec (.send r g b) s = .next
          { s with
            color := r ++ g ++ b
            sym := m
            qCount := s.qCount + 1
            genState := .gRun
            symIdx := 0#5
            half := false
            elapsed := 0#16
            waitCnt := 0
            seq := .tx }) ∧
      (0 < s.cfg.startLatencyTicks →
        exec (.send r g b) s = .next
          { s with
            color := r ++ g ++ b
            sym := m
            qCount := s.qCount + 1
            genState := .gStart
            genStartCnt := s.cfg.startLatencyTicks
            waitCnt := 0
            seq := .tx })

/-- A rejected submission (60_exceptions.md section 4): FAULT with TransmitError / SUBMIT_REJECTED; the colour and the
frame the step had written stay; no pulse. -/
def Obligations.RejectedSendKeepsColourAndFrame : Prop :=
  ∀ (r g b : Channel) (s : State), s.seq = .idle → 24 ≤ s.cfg.symbolCapacity → s.qCount < s.cfg.queueDepth →
    s.input.txOk = false →
    ∃ m : SymMem,
      (∀ p < 24, ({ s with sym := m } : State).symbolAt p = symbolOf ((g ++ r ++ b).getLsbD (23 - p))) ∧
      (∀ p, 24 ≤ p → ({ s with sym := m } : State).symbolAt p = s.symbolAt p) ∧
      exec (.send r g b) s = .next (raise .submitRejected { s with color := r ++ g ++ b, sym := m }) ∧
      dout s = false ∧ dout (raise .submitRejected { s with color := r ++ g ++ b, sym := m }) = false

/-- R128: a SEND accepted in UNINIT faults with TransmitError / NOT_INITIALIZED; no ENCODE runs and no pulse is
emitted. -/
def Obligations.SendBeforeInitFaults : Prop :=
  ∀ (s : State) (r g b : Channel), s.seq = .uninit → s.input.rst = false → s.input.cmdValid = true →
    decodeCommand s.input.cmdWord = .instr (.send r g b) →
    step s = .next (endTick (raise .notInitialized s)) ∧
      (raise .notInitialized s).faultCode = 2#4 ∧ (raise .notInitialized s).faultSub = 2#4 ∧
      (raise .notInitialized s).sym = s.sym ∧ (∀ p, (raise .notInitialized s).symbolAt p = s.symbolAt p) ∧
      (raise .notInitialized s).color = s.color ∧
      dout s = false ∧ dout (raise .notInitialized s) = false

/-- The model's choice (log 10), from the handshake of 10_state.md section 1: where `cmd_ready = 0` the meaning of a
command is to have no effect. -/
def Obligations.CommandsHaveNoEffectWhileBusy : Prop :=
  ∀ (r g b : Channel) (s : State), cmdReady s = false → exec .init s = .next s ∧ exec (.send r g b) s = .next s

/-- TRANSMIT (42_peripheral.md section 2) of one frame into a queue with room: the generator starts, with or without a
start latency, or the submission is rejected. -/
def Obligations.TransmitStartsTheGenerator : Prop :=
  ∀ s : State, s.qCount < s.cfg.queueDepth →
    (s.input.txOk = true → s.cfg.startLatencyTicks = 0 →
      exec (.transmit 1) s = .next
        { s with qCount := s.qCount + 1, genState := .gRun, symIdx := 0#5, half := false, elapsed := 0#16 }) ∧
    (s.input.txOk = true → 0 < s.cfg.startLatencyTicks →
      exec (.transmit 1) s = .next
        { s with qCount := s.qCount + 1, genState := .gStart, genStartCnt := s.cfg.startLatencyTicks }) ∧
    (s.input.txOk = false → exec (.transmit 1) s = .next (raise .submitRejected s))

/-- The model's choice (log 7), from 42_peripheral.md section 2, by which a model that reaches a full queue must refuse:
TRANSMIT is refused where the queue holds QUEUE_DEPTH transactions or more, before `tx_ok` is looked at; and no IDLE state of the invariant, where alone TRANSMIT runs, has a
full queue. -/
def Obligations.TransmitRefusesAFullQueue : Prop :=
  (∀ s : State, s.cfg.queueDepth ≤ s.qCount → exec (.transmit 1) s = .refused .queueFull) ∧
  (∀ s : State, StateInv s → s.seq = .idle → s.qCount < s.cfg.queueDepth)

/-- R85: in every state that meets the invariant only ONE and ZERO have been written to SYM[0..23], and in TX and HOLD
all 24 entries hold one of them; the generator refuses any other record (a duration of 0 among them), and TRANSMIT any
loop count but 1. -/
def Obligations.OtherRecordsAndLoopCountsAreRefused : Prop :=
  (∀ (s : State) (p : Nat) (e : Symbol), StateInv s → p < 24 → s.sym.read p = some e →
    e = ⟨true, 7#16, false, 6#16⟩ ∨ e = ⟨true, 4#16, false, 8#16⟩) ∧
  (∀ (s : State) (p : Nat), StateInv s → s.seq = .tx ∨ s.seq = .hold → p < 24 →
    s.symbolAt p = ⟨true, 7#16, false, 6#16⟩ ∨ s.symbolAt p = ⟨true, 4#16, false, 8#16⟩) ∧
  (∀ (s : State) (e : Symbol), s.input.waitErr = false → timedOut s = false → s.genState = .gRun →
    24 ≤ s.cfg.symbolCapacity → s.symIdx.toNat < 24 → s.symbolAt s.symIdx.toNat = e →
    e ≠ ⟨true, 7#16, false, 6#16⟩ → e ≠ ⟨true, 4#16, false, 8#16⟩ →
    exec .waitComplete s = .refused .illegalSymbol) ∧
  (∀ (s : State) (n : Nat), n ≠ 1 → exec (.transmit n) s = .refused .loopCountNotOne)

/-! ### WAIT_COMPLETE, the generator and HOLD_LOW -/

/-- WAIT_COMPLETE with no failure (42_peripheral.md sections 2 and 3): the start latency counts down and ends, a half
goes on, the second half begins, the next symbol begins; `wait_cnt` counts; nothing else changes. -/
def Obligations.WaitCompleteAdvancesTheGenerator : Prop :=
  ∀ s : State, s.input.waitErr = false → timedOut s = false →
    (s.genState = .gStart → 1 < s.genStartCnt →
      exec .waitComplete s = .next { s with waitCnt := s.waitCnt + 1, genStartCnt := s.genStartCnt - 1 }) ∧
    (s.genState = .gStart → s.genStartCnt ≤ 1 →
      exec .waitComplete s = .next
        { s with
          waitCnt := s.waitCnt + 1
          genStartCnt := 0
          genState := .gRun
          symIdx := 0#5
          half := false
          elapsed := 0#16 }) ∧
    (∀ e : Symbol, s.genState = .gRun → 24 ≤ s.cfg.symbolCapacity → s.symIdx.toNat < 24 →
      s.symbolAt s.symIdx.toNat = e → e.legal = true →
      (s.elapsed.toNat + 1 < e.halfTicks s.half →
        exec .waitComplete s = .next { s with waitCnt := s.waitCnt + 1, elapsed := s.elapsed + 1#16 }) ∧
      (e.halfTicks s.half ≤ s.elapsed.toNat + 1 → s.half = false →
        exec .waitComplete s = .next { s with waitCnt := s.waitCnt + 1, elapsed := 0#16, half := true }) ∧
      (e.halfTicks s.half ≤ s.elapsed.toNat + 1 → s.half = true → s.symIdx.toNat < 23 →
        exec .waitComplete s = .next
          { s with waitCnt := s.waitCnt + 1, elapsed := 0#16, half := false, symIdx := s.symIdx + 1#5 }))

/-- R151 and R154: in the last tick of symbol 23's low half the generator completes, WAIT_COMPLETE returns by going to
HOLD, and the hold is loaded. -/
def Obligations.LastTickCompletesTheFrame : Prop :=
  ∀ (s : State) (e : Symbol), s.seq = .tx → s.input.rst = false → s.input.waitErr = false → timedOut s = false →
    s.genState = .gRun → 24 ≤ s.cfg.symbolCapacity → s.symIdx = 23#5 → s.half = true → s.symbolAt 23 = e →
    e.legal = true →
    e.duration1.toNat ≤ s.elapsed.toNat + 1 →
    step s = .next (endTick
      { s with
        genState := .gIdle
        symIdx := 0#5
        half := false
        elapsed := 0#16
        qCount := s.qCount - 1
        waitCnt := 0
        seq := .hold
        holdCnt := s.cfg.resetHoldTicks })

/-- The failures of a TX tick (42_peripheral.md section 3, 60_exceptions.md section 3): a wait error wins over
everything, completion among it; then a finite timeout that has run out. -/
def Obligations.WaitErrorThenTimeout : Prop :=
  ∀ s : State,
    (s.input.waitErr = true → exec .waitComplete s = .next (raise .waitFailed s)) ∧
    (∀ T : Nat, s.input.waitErr = false → s.cfg.waitTimeoutTicks = some T → T ≤ s.waitCnt →
      exec .waitComplete s = .next (raise .timeout s)) ∧
    (s.cfg.waitTimeoutTicks = none → timedOut s = false)

/-- HOLD_LOW (42_peripheral.md section 4): one tick of the hold, or its end; no draw is read. -/
def Obligations.HoldLowCountsDown : Prop :=
  ∀ s : State,
    (1 < s.holdCnt → exec .holdLow s = .next { s with holdCnt := s.holdCnt - 1 }) ∧
    (s.holdCnt ≤ 1 → exec .holdLow s = .next { s with holdCnt := 0, seq := .idle })

/-- The hold lasts exactly the ticks loaded into `hold_cnt` (42_peripheral.md section 4), whatever the draws, with the
line low in all of them; then the send has returned and a command is accepted. -/
def Obligations.HoldLastsExactlyItsTicks : Prop :=
  ∀ (n : Nat) (s : State), s.seq = .hold → s.holdCnt = n → 1 ≤ n → NoReset n s →
    (∀ k < n, ∃ t, runTicks k s = .next t ∧ t.seq = .hold ∧ t.holdCnt = n - k ∧ dout t = false ∧ cmdReady t = false) ∧
    (∃ t, runTicks n s = .next t ∧ t.seq = .idle ∧ t.holdCnt = 0 ∧ dout t = false ∧ cmdReady t = true)

/-- R153: with a finite window `T` the timeout fires exactly when `T < Ls + F(c)`, in the TX tick with `wait_cnt = T`
and in no earlier one, and never when `T >= Ls + 312`; otherwise completion comes in TX tick `Ls + F(c) - 1`. (TX tick
k of a SEND accepted now is the tick 1 + k from now, and its effect shows in the tick 2 + k from now.) -/
def Obligations.TimeoutFiresExactlyBelowTheFrameLength : Prop :=
  ∀ (s : State) (r g b : Channel) (T : Nat), StateInv s → s.seq = .idle → s.input.cmdValid = true →
    decodeCommand s.input.cmdWord = .instr (.send r g b) → s.cfg.waitTimeoutTicks = some T →
    let c := colourOf r g b
    let n := 1 + s.cfg.startLatencyTicks + frameTicks c
    NoReset n s → NoPeripheralFailure n s →
    (T < s.cfg.startLatencyTicks + frameTicks c →
      (∀ k ≤ T, ∃ t, runTicks (1 + k) s = .next t ∧ t.seq = .tx ∧ t.waitCnt = k) ∧
      (∃ t, runTicks (2 + T) s = .next t ∧ t.seq = .fault ∧ t.faultCode = 3#4 ∧ t.faultSub = 1#4)) ∧
    (s.cfg.startLatencyTicks + frameTicks c ≤ T →
      (∀ k < s.cfg.startLatencyTicks + frameTicks c,
        ∃ t, runTicks (1 + k) s = .next t ∧ t.seq = .tx ∧ t.waitCnt = k) ∧
      ∃ t, runTicks n s = .next t ∧ t.seq = .hold) ∧
    (s.cfg.startLatencyTicks + 312 ≤ T → ∃ t, runTicks n s = .next t ∧ t.seq = .hold)

/-- R148: the line of a SEND accepted now, with no fault: low in this tick, low for the start latency, then wave(c);
then the hold has begun, and the line stays low to the end of the tick in which the next SEND is accepted (whose own
start latency is low by this statement), however long that takes and whatever else happens. -/
def Obligations.SendPutsItsWaveOnTheLine : Prop :=
  ∀ (s : State) (r g b : Channel), StateInv s → s.seq = .idle → s.input.cmdValid = true →
    decodeCommand s.input.cmdWord = .instr (.send r g b) →
    let c := colourOf r g b
    let n := 1 + s.cfg.startLatencyTicks + frameTicks c
    NoReset n s → NoPeripheralFailure n s → WaitWindowAtLeast (s.cfg.startLatencyTicks + frameTicks c) s →
    lineTrace n s = false :: (List.replicate s.cfg.startLatencyTicks false ++ wave c) ∧
    (∃ t, runTicks n s = .next t ∧ t.seq = .hold ∧ t.holdCnt = s.cfg.resetHoldTicks ∧ dout t = false ∧ t.color = c) ∧
    ∀ m : Nat,
      (∀ (j : Nat) (t : State), j + 1 < m → runTicks (n + j) s = .next t → t.input.rst = false → accepted t = true →
        ∀ r' g' b' : Channel, decodeCommand t.input.cmdWord ≠ .instr (.send r' g' b')) →
      lineTrace (n + m) s =
        false :: (List.replicate s.cfg.startLatencyTicks false ++ wave c ++ List.replicate m false)

/-- R129: the timeline of a SEND accepted now, tick by tick, to the tick in which the BLOCK is ready again; with the
spec's latency and hold it takes 10,289 to 10,313 ticks. -/
def Obligations.SendTimeline : Prop :=
  ∀ (s : State) (r g b : Channel), StateInv s → s.seq = .idle → s.input.cmdValid = true →
    decodeCommand s.input.cmdWord = .instr (.send r g b) →
    let c := colourOf r g b
    let Ls := s.cfg.startLatencyTicks
    let F := frameTicks c
    let H := s.cfg.resetHoldTicks
    let n := 1 + Ls + F + H
    NoReset n s → NoPeripheralFailure n s → WaitWindowAtLeast (Ls + F) s →
    (∀ k ≤ n, ∃ t, runTicks k s = .next t ∧
      (k = 0 → t.seq = .idle) ∧
      (1 ≤ k → k ≤ Ls → t.seq = .tx ∧ t.genState = .gStart) ∧
      (1 + Ls ≤ k → k ≤ Ls + F → t.seq = .tx ∧ t.genState = .gRun) ∧
      (1 + Ls + F ≤ k → k ≤ Ls + F + H → t.seq = .hold) ∧
      (k = n → t.seq = .idle ∧ cmdReady t = true ∧ dout t = false)) ∧
    lineTrace n s = false :: (List.replicate Ls false ++ wave c ++ List.replicate H false) ∧
    (Ls = 0 → H = 10000 → 10289 ≤ n ∧ n ≤ 10313)

/-- R131: two SENDs of one colour, accepted in any two states of one machine that meet the invariant, put the same
line out; after each returns the two states are IDLE, hold the frame in SYM[0..23], and are equal in every field but the
model's own (the schedule, its index and the number of the last reset, log 3, 4, 5); and each differs from the state it
started in by the colour and SYM alone. -/
def Obligations.SendsOfOneColourAreIdentical : Prop :=
  ∀ (s s' : State) (r g b : Channel), StateInv s → StateInv s' → s.seq = .idle → s'.seq = .idle → s.cfg = s'.cfg →
    s.input.cmdValid = true → s'.input.cmdValid = true →
    decodeCommand s.input.cmdWord = .instr (.send r g b) → decodeCommand s'.input.cmdWord = .instr (.send r g b) →
    let c := colourOf r g b
    let n := 1 + s.cfg.startLatencyTicks + frameTicks c + s.cfg.resetHoldTicks
    NoReset n s → NoReset n s' → NoPeripheralFailure n s → NoPeripheralFailure n s' →
    WaitWindowAtLeast (s.cfg.startLatencyTicks + frameTicks c) s →
    lineTrace n s = lineTrace n s' ∧
    ∃ t t', runTicks n s = .next t ∧ runTicks n s' = .next t' ∧
      t.seq = .idle ∧ t.color = c ∧ 
      (∀ p < 24, (frameList c)[p]? = some (t.symbolAt p) ∧ t.symbolAt p = t'.symbolAt p) ∧
      (∀ p, 24 ≤ p → t.symbolAt p = s.symbolAt p) ∧
      t = { s with color := t.color, sym := t.sym, inputs := t.inputs, tick := t.tick } ∧
      t = { t' with inputs := t.inputs, tick := t.tick, symReset := t.symReset }

/-! ### The reference receiver (41_transmitter.md section 5) -/

/-- A receiver that holds no bits reads wave(c) and then latches `c` in the tick in which the low run reaches 500, and
not before. -/
def Obligations.ReceiverReadsTheFrame : Prop :=
  ∀ (c : Colour) (x : Receiver), x.bits = [] → x.highrun = 0 →
    ∀ m : Nat,
      (m + (if c.getLsbD 0 then 6 else 8) < 500 →
        (x.watch (wave c ++ List.replicate m false)).latched = x.latched ∧
        (x.watch (wave c ++ List.replicate m false)).bits.length = 24) ∧
      (500 ≤ m + (if c.getLsbD 0 then 6 else 8) →
        (x.watch (wave c ++ List.replicate m false)).latched = some c ∧
        (x.watch (wave c ++ List.replicate m false)).bits = [])

/-- A completed SEND makes the reference receiver latch its colour, in the hold's 494th tick when b[0] = 1 and in its
492nd when b[0] = 0, and not before. -/
def Obligations.CompletedSendLatchesItsColour : Prop :=
  ∀ (s : State) (r g b : Channel) (x : Receiver), StateInv s → s.seq = .idle → s.input.cmdValid = true →
    decodeCommand s.input.cmdWord = .instr (.send r g b) →
    let c := colourOf r g b
    let n := 1 + s.cfg.startLatencyTicks + frameTicks c
    NoReset (n + s.cfg.resetHoldTicks) s → NoPeripheralFailure (n + s.cfg.resetHoldTicks) s →
    WaitWindowAtLeast (s.cfg.startLatencyTicks + frameTicks c) s →
    x.bits = [] → x.highrun = 0 →
    ∀ j ≤ s.cfg.resetHoldTicks,
      (x.watch (lineTrace (n + j) s)).latched =
        if j < (if b.getLsbD 0 then 494 else 492) then x.latched else some c

/-! ### Ports, STATUS and the line (10_state.md) -/

/-- R22: a command is accepted exactly when valid and ready; the word of a tick that accepts nothing is not read; a
command presented while `cmd_ready = 0` has no effect and the host keeps presenting it. -/
def Obligations.UnacceptedCommandHasNoEffect : Prop :=
  (∀ s : State, accepted s = true ↔ s.input.cmdValid = true ∧ cmdReady s = true) ∧
  (∀ (s : State) (v : Bool) (w : CmdWord), cmdReady s = false →
    step (withInput { s.input with cmdValid := v, cmdWord := w } s) = step (withInput s.input s)) ∧
  (∀ (s : State) (w : CmdWord), s.input.cmdValid = false →
    step (withInput { s.input with cmdWord := w } s) = step (withInput s.input s)) ∧
  (∀ (w : CmdWord) (ws : List CmdWord) (s : State) (d : Driven), cmdReady s = false → hostTick ⟨w :: ws, s⟩ = some d →
    d.commands = w :: ws)

/-- When a command is accepted and its word decodes to an instruction, the step is that instruction, and then the
inputs of the tick are gone. -/
def Obligations.StepRunsTheDecodedCommand : Prop :=
  ∀ (s : State) (i : Instr), s.input.rst = false → accepted s = true →
    decode (.command s.input.cmdWord) = .ok i → step s = Result.mapNext endTick (exec i s)

/-- The ticks that run an internal operation (41_transmitter.md section 1): WAIT_COMPLETE in every TX tick, HOLD_LOW in
every HOLD tick, the three configuration operations in the last INIT_BUSY tick; before it INIT counts down. -/
def Obligations.StepRunsTheInternalOperations : Prop :=
  ∀ s : State, s.input.rst = false →
    (s.seq = .tx → step s = Result.mapNext endTick (exec .waitComplete s)) ∧
    (s.seq = .hold → step s = Result.mapNext endTick (exec .holdLow s)) ∧
    (s.seq = .initBusy → 1 < s.initCnt → step s = .next (endTick { s with initCnt := s.initCnt - 1 })) ∧
    (s.seq = .initBusy → s.initCnt ≤ 1 →
      step s = Result.mapNext endTick
        (Result.andThen (exec .configure s) fun s =>
          Result.andThen (exec .createCopyEncoder s) fun s =>
            Result.andThen (exec .enable s) fun s =>
              .next { s with initDone := true, initCnt := 0, seq := .idle })) ∧
    (accepted s = false → s.seq = .uninit ∨ s.seq = .idle → step s = .next (endTick s))

/-- R81 and R82: an accepted word with a reserved opcode, or with a reserved bit set, faults with IllegalCommand and its
sub-cause, before any check of the state. -/
def Obligations.IllegalWordFaults : Prop :=
  ∀ s : State, s.input.rst = false → accepted s = true →
    let w := s.input.cmdWord
    (w.extractLsb' 28 4 ≠ 0x1#4 → w.extractLsb' 28 4 ≠ 0x2#4 →
      step s = .next (endTick (raise .reservedOpcode s)) ∧
        (raise .reservedOpcode s).faultCode = 4#4 ∧ (raise .reservedOpcode s).faultSub = 1#4) ∧
    (w.extractLsb' 28 4 = 0x1#4 ∧ w.extractLsb' 0 28 ≠ 0#28 ∨ w.extractLsb' 28 4 = 0x2#4 ∧ w.extractLsb' 24 4 ≠ 0#4 →
      step s = .next (endTick (raise .reservedBits s)) ∧
        (raise .reservedBits s).faultCode = 4#4 ∧ (raise .reservedBits s).faultSub = 2#4)

/-- R42 and R26: every field of the STATUS word, and the word right after reset. -/
def Obligations.StatusWordFields : Prop :=
  (∀ s : State,
    (status s).getLsbD 0 = s.initDone ∧
    ((status s).getLsbD 1 = true ↔ s.seq = .initBusy ∨ s.seq = .tx ∨ s.seq = .hold) ∧
    ((status s).getLsbD 2 = true ↔ s.seq = .fault) ∧
    (status s).getLsbD 3 = cmdReady s ∧
    (status s).extractLsb' 4 4 = s.faultCode ∧
    (status s).extractLsb' 8 4 = s.faultSub ∧
    (s.seq = .uninit → (status s).extractLsb' 12 4 = 0x0#4) ∧
    (s.seq = .initBusy → (status s).extractLsb' 12 4 = 0x1#4) ∧
    (s.seq = .idle → (status s).extractLsb' 12 4 = 0x2#4) ∧
    (s.seq = .tx → (status s).extractLsb' 12 4 = 0x3#4) ∧
    (s.seq = .hold → (status s).extractLsb' 12 4 = 0x4#4) ∧
    (s.seq = .fault → (status s).extractLsb' 12 4 = 0xF#4) ∧
    (s.genState = .gRun → (status s).extractLsb' 16 5 = s.symIdx ∧ (status s).getLsbD 21 = s.half) ∧
    (s.genState ≠ .gRun → (status s).extractLsb' 16 5 = 0#5 ∧ (status s).getLsbD 21 = false) ∧
    (status s).getLsbD 22 = dout s ∧
    (status s).extractLsb' 23 9 = 0#9) ∧
  (∀ cfg inputs tick, status (State.resetOf cfg inputs tick) = 0x00000008#32)

/-- R37: the line is the level of the half of the record under the generator, and low otherwise; so, in every state that
meets the invariant, it is high exactly in the first half of each symbol. -/
def Obligations.LineHighExactlyInFirstHalves : Prop :=
  (∀ s : State, s.seq = .tx → s.genState = .gRun →
    dout s = if s.half then (s.symbolAt s.symIdx.toNat).level1 else (s.symbolAt s.symIdx.toNat).level0) ∧
  (∀ s : State, ¬ (s.seq = .tx ∧ s.genState = .gRun) → dout s = false) ∧
  (∀ s : State, StateInv s → (dout s = true ↔ s.seq = .tx ∧ s.genState = .gRun ∧ s.half = false))

/-- R41: ready exactly in UNINIT and IDLE; in FAULT never, for as long as there is no reset. -/
def Obligations.ReadyExactlyInUninitAndIdle : Prop :=
  (∀ s : State, cmdReady s = true ↔ s.seq = .uninit ∨ s.seq = .idle) ∧
  (∀ (n : Nat) (s : State), s.seq = .fault → NoReset n s → ∃ t, runTicks n s = .next t ∧ cmdReady t = false)

/-- The model's driver of the BLOCK, an eager host (log 22, after 92_eei_decisions.md D39; 41_transmitter.md section 4
gives the host's commands and the end of a run): it presents its first command in every tick until it is accepted and
then goes on to the next; a run has ended when nothing is left to present and `seq` is UNINIT, IDLE or FAULT. -/
def Obligations.EagerHostKeepsItsCommandUntilAccepted : Prop :=
  (∀ d d' : Driven, hostTick d = some d' → d.block.input.rst = false →
    (cmdReady d.block = false → d'.commands = d.commands) ∧
    (cmdReady d.block = true → d'.commands = d.commands.tail)) ∧
  (∀ d : Driven, runEnded d = true ↔
    d.commands = [] ∧ (d.block.seq = .uninit ∨ d.block.seq = .idle ∨ d.block.seq = .fault))

/-! ### Faults and reset (60_exceptions.md, 70_reset_and_hazards.md) -/

/-- R180: whatever takes the BLOCK into FAULT records one of the causes of R170 to R174 (whose codes and sub-causes are
stated one by one), idles the generator, empties
the queue and clears the counters; init_done stays, no handle bit is lost, and from the next tick the line is low,
`cmd_ready = 0` and STATUS shows the fault. -/
def Obligations.FaultEntry : Prop :=
  (∀ (x : Cause) (s : State),
    raise x s =
      { s with
        seq := .fault
        faultCode := x.code
        faultSub := x.sub
        genState := .gIdle
        genStartCnt := 0
        symIdx := 0#5
        half := false
        elapsed := 0#16
        qCount := 0
        initCnt := 0
        waitCnt := 0
        holdCnt := 0 }) ∧
  (Cause.resourceUnavailable.code = 1#4 ∧ Cause.resourceUnavailable.sub = 1#4 ∧
    Cause.configRejected.code = 1#4 ∧ Cause.configRejected.sub = 2#4 ∧
    Cause.encoderUnavailable.code = 1#4 ∧ Cause.encoderUnavailable.sub = 3#4 ∧
    Cause.enableFailed.code = 1#4 ∧ Cause.enableFailed.sub = 4#4 ∧
    Cause.alreadyInitialized.code = 1#4 ∧ Cause.alreadyInitialized.sub = 5#4 ∧
    Cause.submitRejected.code = 2#4 ∧ Cause.submitRejected.sub = 1#4 ∧
    Cause.notInitialized.code = 2#4 ∧ Cause.notInitialized.sub = 2#4 ∧
    Cause.waitFailed.code = 2#4 ∧ Cause.waitFailed.sub = 3#4 ∧
    Cause.timeout.code = 3#4 ∧ Cause.timeout.sub = 1#4 ∧
    Cause.reservedOpcode.code = 4#4 ∧ Cause.reservedOpcode.sub = 1#4 ∧
    Cause.reservedBits.code = 4#4 ∧ Cause.reservedBits.sub = 2#4) ∧
  (∀ s t : State, step s = .next t → s.seq ≠ .fault → t.seq = .fault →
    (t.faultCode, t.faultSub) ∈
      [(1#4, 1#4), (1#4, 2#4), (1#4, 3#4), (1#4, 4#4), (1#4, 5#4), (2#4, 1#4), (2#4, 2#4), (2#4, 3#4), (3#4, 1#4),
        (4#4, 1#4), (4#4, 2#4)] ∧
    t.genState = .gIdle ∧ t.genStartCnt = 0 ∧ t.symIdx = 0#5 ∧ t.half = false ∧ t.elapsed = 0#16 ∧
    t.qCount = 0 ∧ t.initCnt = 0 ∧ t.waitCnt = 0 ∧ t.holdCnt = 0 ∧
    t.initDone = s.initDone ∧ (s.chanAlloc = true → t.chanAlloc = true) ∧ (s.copyEnc = true → t.copyEnc = true) ∧
    (s.chanEn = true → t.chanEn = true) ∧
    dout t = false ∧ cmdReady t = false ∧ (status t).getLsbD 2 = true ∧
    (status t).extractLsb' 4 4 = t.faultCode ∧ (status t).extractLsb' 8 4 = t.faultSub)

/-- R182: only reset leaves FAULT. Without it nothing of the BLOCK changes, for any number of ticks and whatever is
presented or drawn; with it the BLOCK is in UNINIT in the next tick. -/
def Obligations.OnlyResetLeavesFault : Prop :=
  (∀ (n : Nat) (s : State), s.seq = .fault → NoReset n s →
    runTicks n s = .next { s with inputs := s.inputs.drop n, tick := s.tick + n } ∧
    lineTrace n s = List.replicate n false) ∧
  (∀ s : State, s.seq = .fault → s.input.rst = true → ∃ t, step s = .next t ∧ t.seq = .uninit ∧ cmdReady t = true)

/-- R200 and R201: `rst = 1` gives RESET_STATE whatever else is presented or drawn, from any state; holding it keeps
RESET_STATE; in the tick after it the line is low, a command may be accepted and STATUS is 8. The content of SYM is
unspecified: the statement says of no content that it is the one. (The parameters stay: they are no state.) -/
def Obligations.ResetOverridesEverything : Prop :=
  ∀ (n : Nat) (s : State), 1 ≤ n → (∀ j < n, (s.inputAt j).rst = true) →
    ∃ t : State, runTicks n s = .next t ∧ t.cfg = s.cfg ∧
      t.seq = .uninit ∧ t.initDone = false ∧ t.initCnt = 0 ∧ t.color = 0#24 ∧ t.chanAlloc = false ∧
      t.copyEnc = false ∧ t.chanEn = false ∧ t.qCount = 0 ∧ t.genState = .gIdle ∧ t.genStartCnt = 0 ∧
      t.symIdx = 0#5 ∧ t.half = false ∧ t.elapsed = 0#16 ∧ t.waitCnt = 0 ∧ t.holdCnt = 0 ∧
      t.faultCode = 0#4 ∧ t.faultSub = 0#4 ∧
      dout t = false ∧ cmdReady t = true ∧ status t = 0x00000008#32

/-! ### The whole machine -/

/-- The invariant holds in RESET_STATE, for any parameters and inputs. -/
def Obligations.ResetMeetsTheInvariant : Prop :=
  ∀ (cfg : Config.Params) (inputs : List TickInput) (tick : Nat), StateInv (State.resetOf cfg inputs tick)

/-- Every step keeps the invariant: 10_state.md's R47, the counters, the handles, the canonical frame in SYM. -/
def Obligations.EveryStepKeepsTheInvariant : Prop :=
  ∀ s t : State, StateInv s → step s = .next t → StateInv t

/-- R47: the invariants (a) to (f) hold in every reachable state, for every parameter, input and draw. -/
def Obligations.ReachableStatesKeepTheSpecInvariants : Prop :=
  ∀ s : State, Reachable s → SpecInvariant s

/-- No state that meets the invariant stops the model: whatever is presented and drawn, there is a next state. -/
def Obligations.NoStopFromTheInvariant : Prop :=
  ∀ s : State, StateInv s → ∃ t, step s = .next t

/-- R27: a completing INIT sets init_done, and nothing else does; once 1 it stays 1 until reset, through faults too. -/
def Obligations.InitDoneStaysUntilReset : Prop :=
  ∀ s t : State, step s = .next t → s.input.rst = false →
    (s.seq = .initBusy → t.seq = .idle → t.initDone = true) ∧
    (s.initDone = true → t.initDone = true) ∧
    (s.initDone = false → t.initDone = true → s.seq = .initBusy ∧ t.seq = .idle)

/-- Persistence (20_memory.md section 1) and the colour (10_state.md section 2): only a SEND accepted in IDLE writes SYM or the colour, and it
overwrites all 24 entries; a frame that completes leaves SYM as it is. -/
def Obligations.OnlySendWritesColourAndSymbols : Prop :=
  ∀ s t : State, step s = .next t → s.input.rst = false →
    (t.color = s.color ∧ t.sym = s.sym ∧ ∀ p, t.symbolAt p = s.symbolAt p) ∨
    (∃ r g b : Channel, s.seq = .idle ∧ accepted s = true ∧
      decodeCommand s.input.cmdWord = .instr (.send r g b) ∧ t.color = r ++ g ++ b ∧
      (∀ p < 24, t.symbolAt p = symbolOf ((g ++ r ++ b).getLsbD (23 - p))) ∧
      (∀ p, 24 ≤ p → t.symbolAt p = s.symbolAt p))

/-- The parameters never change (10_state.md section 4), and no handle bit is cleared but by reset (42_peripheral.md
section 1). -/
def Obligations.ParametersAndHandlesStay : Prop :=
  ∀ s t : State, step s = .next t →
    t.cfg = s.cfg ∧
    (s.input.rst = false →
      (s.chanAlloc = true → t.chanAlloc = true) ∧ (s.copyEnc = true → t.copyEnc = true) ∧
      (s.chanEn = true → t.chanEn = true))

/-- R134: the sequencer moves only along UNINIT → INIT_BUSY → IDLE → TX → HOLD → IDLE, to FAULT on a fault, and to
UNINIT on reset; otherwise it stays. -/
def Obligations.SequencerMovesOnlyAlongItsEdges : Prop :=
  ∀ s t : State, step s = .next t →
    (s.input.rst = true → t.seq = .uninit) ∧
    (s.input.rst = false →
      t.seq = s.seq ∨ t.seq = .fault ∨
      (s.seq, t.seq) ∈
        [(Seq.uninit, Seq.initBusy), (.initBusy, .idle), (.idle, .tx), (.tx, .hold), (.hold, .idle)])
end

