-- ==== Sys2Proof/Laws/State.lean ====
section
/-! SUPPORT. What every named update of the state does to every field: one lemma each, true by rfl. -/

namespace Sys2Proof.Laws

open Sys2Proof Sys2Proof.Machine

/-! ### Taking a fault (60_exceptions.md R180) -/

@[simp] theorem raise_cfg (x : Cause) (s : State) : (raise x s).cfg = s.cfg := rfl
@[simp] theorem raise_seq (x : Cause) (s : State) : (raise x s).seq = .fault := rfl
@[simp] theorem raise_initDone (x : Cause) (s : State) : (raise x s).initDone = s.initDone := rfl
@[simp] theorem raise_initCnt (x : Cause) (s : State) : (raise x s).initCnt = 0 := rfl
@[simp] theorem raise_color (x : Cause) (s : State) : (raise x s).color = s.color := rfl
@[simp] theorem raise_chanAlloc (x : Cause) (s : State) : (raise x s).chanAlloc = s.chanAlloc := rfl
@[simp] theorem raise_copyEnc (x : Cause) (s : State) : (raise x s).copyEnc = s.copyEnc := rfl
@[simp] theorem raise_chanEn (x : Cause) (s : State) : (raise x s).chanEn = s.chanEn := rfl
@[simp] theorem raise_sym (x : Cause) (s : State) : (raise x s).sym = s.sym := rfl
@[simp] theorem raise_symReset (x : Cause) (s : State) : (raise x s).symReset = s.symReset := rfl
@[simp] theorem raise_qCount (x : Cause) (s : State) : (raise x s).qCount = 0 := rfl
@[simp] theorem raise_genState (x : Cause) (s : State) : (raise x s).genState = .gIdle := rfl
@[simp] theorem raise_genStartCnt (x : Cause) (s : State) : (raise x s).genStartCnt = 0 := rfl
@[simp] theorem raise_symIdx (x : Cause) (s : State) : (raise x s).symIdx = 0#5 := rfl
@[simp] theorem raise_half (x : Cause) (s : State) : (raise x s).half = false := rfl
@[simp] theorem raise_elapsed (x : Cause) (s : State) : (raise x s).elapsed = 0#16 := rfl
@[simp] theorem raise_waitCnt (x : Cause) (s : State) : (raise x s).waitCnt = 0 := rfl
@[simp] theorem raise_holdCnt (x : Cause) (s : State) : (raise x s).holdCnt = 0 := rfl
@[simp] theorem raise_faultCode (x : Cause) (s : State) : (raise x s).faultCode = x.code := rfl
@[simp] theorem raise_faultSub (x : Cause) (s : State) : (raise x s).faultSub = x.sub := rfl
@[simp] theorem raise_inputs (x : Cause) (s : State) : (raise x s).inputs = s.inputs := rfl
@[simp] theorem raise_tick (x : Cause) (s : State) : (raise x s).tick = s.tick := rfl

/-! ### The end of a tick -/

@[simp] theorem endTick_cfg (s : State) : (endTick s).cfg = s.cfg := rfl
@[simp] theorem endTick_seq (s : State) : (endTick s).seq = s.seq := rfl
@[simp] theorem endTick_initDone (s : State) : (endTick s).initDone = s.initDone := rfl
@[simp] theorem endTick_initCnt (s : State) : (endTick s).initCnt = s.initCnt := rfl
@[simp] theorem endTick_color (s : State) : (endTick s).color = s.color := rfl
@[simp] theorem endTick_chanAlloc (s : State) : (endTick s).chanAlloc = s.chanAlloc := rfl
@[simp] theorem endTick_copyEnc (s : State) : (endTick s).copyEnc = s.copyEnc := rfl
@[simp] theorem endTick_chanEn (s : State) : (endTick s).chanEn = s.chanEn := rfl
@[simp] theorem endTick_sym (s : State) : (endTick s).sym = s.sym := rfl
@[simp] theorem endTick_symReset (s : State) : (endTick s).symReset = s.symReset := rfl
@[simp] theorem endTick_qCount (s : State) : (endTick s).qCount = s.qCount := rfl
@[simp] theorem endTick_genState (s : State) : (endTick s).genState = s.genState := rfl
@[simp] theorem endTick_genStartCnt (s : State) : (endTick s).genStartCnt = s.genStartCnt := rfl
@[simp] theorem endTick_symIdx (s : State) : (endTick s).symIdx = s.symIdx := rfl
@[simp] theorem endTick_half (s : State) : (endTick s).half = s.half := rfl
@[simp] theorem endTick_elapsed (s : State) : (endTick s).elapsed = s.elapsed := rfl
@[simp] theorem endTick_waitCnt (s : State) : (endTick s).waitCnt = s.waitCnt := rfl
@[simp] theorem endTick_holdCnt (s : State) : (endTick s).holdCnt = s.holdCnt := rfl
@[simp] theorem endTick_faultCode (s : State) : (endTick s).faultCode = s.faultCode := rfl
@[simp] theorem endTick_faultSub (s : State) : (endTick s).faultSub = s.faultSub := rfl
@[simp] theorem endTick_inputs (s : State) : (endTick s).inputs = s.inputs.tail := rfl
@[simp] theorem endTick_tick (s : State) : (endTick s).tick = s.tick + 1 := rfl

/-! ### A reset tick (10_state.md R49) -/

@[simp] theorem resetBlock_cfg (s : State) : (resetBlock s).cfg = s.cfg := rfl
@[simp] theorem resetBlock_seq (s : State) : (resetBlock s).seq = .uninit := rfl
@[simp] theorem resetBlock_initDone (s : State) : (resetBlock s).initDone = false := rfl
@[simp] theorem resetBlock_initCnt (s : State) : (resetBlock s).initCnt = 0 := rfl
@[simp] theorem resetBlock_color (s : State) : (resetBlock s).color = 0#24 := rfl
@[simp] theorem resetBlock_chanAlloc (s : State) : (resetBlock s).chanAlloc = false := rfl
@[simp] theorem resetBlock_copyEnc (s : State) : (resetBlock s).copyEnc = false := rfl
@[simp] theorem resetBlock_chanEn (s : State) : (resetBlock s).chanEn = false := rfl
@[simp] theorem resetBlock_sym (s : State) : (resetBlock s).sym = [] := rfl
@[simp] theorem resetBlock_symReset (s : State) : (resetBlock s).symReset = s.tick + 1 := rfl
@[simp] theorem resetBlock_qCount (s : State) : (resetBlock s).qCount = 0 := rfl
@[simp] theorem resetBlock_genState (s : State) : (resetBlock s).genState = .gIdle := rfl
@[simp] theorem resetBlock_genStartCnt (s : State) : (resetBlock s).genStartCnt = 0 := rfl
@[simp] theorem resetBlock_symIdx (s : State) : (resetBlock s).symIdx = 0#5 := rfl
@[simp] theorem resetBlock_half (s : State) : (resetBlock s).half = false := rfl
@[simp] theorem resetBlock_elapsed (s : State) : (resetBlock s).elapsed = 0#16 := rfl
@[simp] theorem resetBlock_waitCnt (s : State) : (resetBlock s).waitCnt = 0 := rfl
@[simp] theorem resetBlock_holdCnt (s : State) : (resetBlock s).holdCnt = 0 := rfl
@[simp] theorem resetBlock_faultCode (s : State) : (resetBlock s).faultCode = 0#4 := rfl
@[simp] theorem resetBlock_faultSub (s : State) : (resetBlock s).faultSub = 0#4 := rfl
@[simp] theorem resetBlock_inputs (s : State) : (resetBlock s).inputs = s.inputs := rfl
@[simp] theorem resetBlock_tick (s : State) : (resetBlock s).tick = s.tick := rfl

/-! ### The generator begins symbol 0 (42_peripheral.md R147) -/

@[simp] theorem beginFrame_cfg (s : State) : (beginFrame s).cfg = s.cfg := rfl
@[simp] theorem beginFrame_seq (s : State) : (beginFrame s).seq = s.seq := rfl
@[simp] theorem beginFrame_initDone (s : State) : (beginFrame s).initDone = s.initDone := rfl
@[simp] theorem beginFrame_initCnt (s : State) : (beginFrame s).initCnt = s.initCnt := rfl
@[simp] theorem beginFrame_color (s : State) : (beginFrame s).color = s.color := rfl
@[simp] theorem beginFrame_chanAlloc (s : State) : (beginFrame s).chanAlloc = s.chanAlloc := rfl
@[simp] theorem beginFrame_copyEnc (s : State) : (beginFrame s).copyEnc = s.copyEnc := rfl
@[simp] theorem beginFrame_chanEn (s : State) : (beginFrame s).chanEn = s.chanEn := rfl
@[simp] theorem beginFrame_sym (s : State) : (beginFrame s).sym = s.sym := rfl
@[simp] theorem beginFrame_symReset (s : State) : (beginFrame s).symReset = s.symReset := rfl
@[simp] theorem beginFrame_qCount (s : State) : (beginFrame s).qCount = s.qCount := rfl
@[simp] theorem beginFrame_genState (s : State) : (beginFrame s).genState = .gRun := rfl
@[simp] theorem beginFrame_genStartCnt (s : State) : (beginFrame s).genStartCnt = s.genStartCnt := rfl
@[simp] theorem beginFrame_symIdx (s : State) : (beginFrame s).symIdx = 0#5 := rfl
@[simp] theorem beginFrame_half (s : State) : (beginFrame s).half = false := rfl
@[simp] theorem beginFrame_elapsed (s : State) : (beginFrame s).elapsed = 0#16 := rfl
@[simp] theorem beginFrame_waitCnt (s : State) : (beginFrame s).waitCnt = s.waitCnt := rfl
@[simp] theorem beginFrame_holdCnt (s : State) : (beginFrame s).holdCnt = s.holdCnt := rfl
@[simp] theorem beginFrame_faultCode (s : State) : (beginFrame s).faultCode = s.faultCode := rfl
@[simp] theorem beginFrame_faultSub (s : State) : (beginFrame s).faultSub = s.faultSub := rfl
@[simp] theorem beginFrame_inputs (s : State) : (beginFrame s).inputs = s.inputs := rfl
@[simp] theorem beginFrame_tick (s : State) : (beginFrame s).tick = s.tick := rfl

/-! ### Completion (42_peripheral.md R151) -/

@[simp] theorem completeFrame_cfg (s : State) : (completeFrame s).cfg = s.cfg := rfl
@[simp] theorem completeFrame_seq (s : State) : (completeFrame s).seq = .hold := rfl
@[simp] theorem completeFrame_initDone (s : State) : (completeFrame s).initDone = s.initDone := rfl
@[simp] theorem completeFrame_initCnt (s : State) : (completeFrame s).initCnt = s.initCnt := rfl
@[simp] theorem completeFrame_color (s : State) : (completeFrame s).color = s.color := rfl
@[simp] theorem completeFrame_chanAlloc (s : State) : (completeFrame s).chanAlloc = s.chanAlloc := rfl
@[simp] theorem completeFrame_copyEnc (s : State) : (completeFrame s).copyEnc = s.copyEnc := rfl
@[simp] theorem completeFrame_chanEn (s : State) : (completeFrame s).chanEn = s.chanEn := rfl
@[simp] theorem completeFrame_sym (s : State) : (completeFrame s).sym = s.sym := rfl
@[simp] theorem completeFrame_symReset (s : State) : (completeFrame s).symReset = s.symReset := rfl
@[simp] theorem completeFrame_qCount (s : State) : (completeFrame s).qCount = s.qCount - 1 := rfl
@[simp] theorem completeFrame_genState (s : State) : (completeFrame s).genState = .gIdle := rfl
@[simp] theorem completeFrame_genStartCnt (s : State) : (completeFrame s).genStartCnt = s.genStartCnt := rfl
@[simp] theorem completeFrame_symIdx (s : State) : (completeFrame s).symIdx = 0#5 := rfl
@[simp] theorem completeFrame_half (s : State) : (completeFrame s).half = false := rfl
@[simp] theorem completeFrame_elapsed (s : State) : (completeFrame s).elapsed = 0#16 := rfl
@[simp] theorem completeFrame_waitCnt (s : State) : (completeFrame s).waitCnt = 0 := rfl
@[simp] theorem completeFrame_holdCnt (s : State) : (completeFrame s).holdCnt = s.cfg.resetHoldTicks := rfl
@[simp] theorem completeFrame_faultCode (s : State) : (completeFrame s).faultCode = s.faultCode := rfl
@[simp] theorem completeFrame_faultSub (s : State) : (completeFrame s).faultSub = s.faultSub := rfl
@[simp] theorem completeFrame_inputs (s : State) : (completeFrame s).inputs = s.inputs := rfl
@[simp] theorem completeFrame_tick (s : State) : (completeFrame s).tick = s.tick := rfl

/-! ### INIT is accepted (41_transmitter.md R123) -/

@[simp] theorem initAccept_cfg (s : State) : (initAccept s).cfg = s.cfg := rfl
@[simp] theorem initAccept_seq (s : State) : (initAccept s).seq = .initBusy := rfl
@[simp] theorem initAccept_initDone (s : State) : (initAccept s).initDone = s.initDone := rfl
@[simp] theorem initAccept_initCnt (s : State) : (initAccept s).initCnt = s.input.initLatency := rfl
@[simp] theorem initAccept_color (s : State) : (initAccept s).color = s.color := rfl
@[simp] theorem initAccept_chanAlloc (s : State) : (initAccept s).chanAlloc = s.chanAlloc := rfl
@[simp] theorem initAccept_copyEnc (s : State) : (initAccept s).copyEnc = s.copyEnc := rfl
@[simp] theorem initAccept_chanEn (s : State) : (initAccept s).chanEn = s.chanEn := rfl
@[simp] theorem initAccept_sym (s : State) : (initAccept s).sym = s.sym := rfl
@[simp] theorem initAccept_symReset (s : State) : (initAccept s).symReset = s.symReset := rfl
@[simp] theorem initAccept_qCount (s : State) : (initAccept s).qCount = s.qCount := rfl
@[simp] theorem initAccept_genState (s : State) : (initAccept s).genState = s.genState := rfl
@[simp] theorem initAccept_genStartCnt (s : State) : (initAccept s).genStartCnt = s.genStartCnt := rfl
@[simp] theorem initAccept_symIdx (s : State) : (initAccept s).symIdx = s.symIdx := rfl
@[simp] theorem initAccept_half (s : State) : (initAccept s).half = s.half := rfl
@[simp] theorem initAccept_elapsed (s : State) : (initAccept s).elapsed = s.elapsed := rfl
@[simp] theorem initAccept_waitCnt (s : State) : (initAccept s).waitCnt = s.waitCnt := rfl
@[simp] theorem initAccept_holdCnt (s : State) : (initAccept s).holdCnt = s.holdCnt := rfl
@[simp] theorem initAccept_faultCode (s : State) : (initAccept s).faultCode = s.faultCode := rfl
@[simp] theorem initAccept_faultSub (s : State) : (initAccept s).faultSub = s.faultSub := rfl
@[simp] theorem initAccept_inputs (s : State) : (initAccept s).inputs = s.inputs := rfl
@[simp] theorem initAccept_tick (s : State) : (initAccept s).tick = s.tick := rfl

/-! ### INIT is complete (41_transmitter.md R124) -/

@[simp] theorem initDoneState_cfg (s : State) : (initDoneState s).cfg = s.cfg := rfl
@[simp] theorem initDoneState_seq (s : State) : (initDoneState s).seq = .idle := rfl
@[simp] theorem initDoneState_initDone (s : State) : (initDoneState s).initDone = true := rfl
@[simp] theorem initDoneState_initCnt (s : State) : (initDoneState s).initCnt = 0 := rfl
@[simp] theorem initDoneState_color (s : State) : (initDoneState s).color = s.color := rfl
@[simp] theorem initDoneState_chanAlloc (s : State) : (initDoneState s).chanAlloc = s.chanAlloc := rfl
@[simp] theorem initDoneState_copyEnc (s : State) : (initDoneState s).copyEnc = s.copyEnc := rfl
@[simp] theorem initDoneState_chanEn (s : State) : (initDoneState s).chanEn = s.chanEn := rfl
@[simp] theorem initDoneState_sym (s : State) : (initDoneState s).sym = s.sym := rfl
@[simp] theorem initDoneState_symReset (s : State) : (initDoneState s).symReset = s.symReset := rfl
@[simp] theorem initDoneState_qCount (s : State) : (initDoneState s).qCount = s.qCount := rfl
@[simp] theorem initDoneState_genState (s : State) : (initDoneState s).genState = s.genState := rfl
@[simp] theorem initDoneState_genStartCnt (s : State) : (initDoneState s).genStartCnt = s.genStartCnt := rfl
@[simp] theorem initDoneState_symIdx (s : State) : (initDoneState s).symIdx = s.symIdx := rfl
@[simp] theorem initDoneState_half (s : State) : (initDoneState s).half = s.half := rfl
@[simp] theorem initDoneState_elapsed (s : State) : (initDoneState s).elapsed = s.elapsed := rfl
@[simp] theorem initDoneState_waitCnt (s : State) : (initDoneState s).waitCnt = s.waitCnt := rfl
@[simp] theorem initDoneState_holdCnt (s : State) : (initDoneState s).holdCnt = s.holdCnt := rfl
@[simp] theorem initDoneState_faultCode (s : State) : (initDoneState s).faultCode = s.faultCode := rfl
@[simp] theorem initDoneState_faultSub (s : State) : (initDoneState s).faultSub = s.faultSub := rfl
@[simp] theorem initDoneState_inputs (s : State) : (initDoneState s).inputs = s.inputs := rfl
@[simp] theorem initDoneState_tick (s : State) : (initDoneState s).tick = s.tick := rfl

end Sys2Proof.Laws
end

