-- ==== Sys2Proof/Laws/Memory.lean ====
section
/-! SUPPORT. The laws of the symbol memory: read after write, and the canonical form kept by every operation. -/

namespace Sys2Proof.Laws

open Sys2Proof Sys2Proof.Machine

theorem read_write_same (m : SymMem) (i : Nat) (e : Symbol) :
    SymMem.read (SymMem.write m i e) i = some e := by
  induction m with
  | nil => simp [SymMem.write, SymMem.read]
  | cons a m ih =>
    obtain ⟨j, x⟩ := a
    by_cases hlt : i < j
    · simp [SymMem.write, SymMem.read, hlt]
    · by_cases heq : i = j
      · simp [SymMem.write, SymMem.read, heq]
      · simp [SymMem.write, SymMem.read, hlt, heq, ih]

theorem read_write_other (m : SymMem) {i k : Nat} (e : Symbol) (h : k ≠ i) :
    SymMem.read (SymMem.write m i e) k = SymMem.read m k := by
  induction m with
  | nil => simp [SymMem.write, SymMem.read, h]
  | cons a m ih =>
    obtain ⟨j, x⟩ := a
    by_cases hlt : i < j
    · simp [SymMem.write, SymMem.read, hlt, h]
    · by_cases heq : i = j
      · subst heq
        simp [SymMem.write, SymMem.read, h]
      · simp [SymMem.write, SymMem.read, hlt, heq, ih]

/-- Every index a write leaves in the list was there before or is the written one. -/
theorem mem_write_index {m : SymMem} {i : Nat} {e : Symbol} {a : Nat × Symbol}
    (h : a ∈ SymMem.write m i e) : a.1 = i ∨ a ∈ m := by
  induction m with
  | nil =>
    simp only [SymMem.write, List.mem_singleton] at h
    exact .inl (by rw [h])
  | cons b m ih =>
    obtain ⟨j, x⟩ := b
    by_cases hlt : i < j
    · simp only [SymMem.write, hlt, if_true, List.mem_cons] at h
      rcases h with h | h | h
      · exact .inl (by rw [h])
      · exact .inr (by simp [h])
      · exact .inr (by simp [h])
    · by_cases heq : i = j
      · simp only [SymMem.write, heq, lt_irrefl, if_false, if_true, List.mem_cons] at h
        rcases h with h | h
        · exact .inl (by rw [h, heq])
        · exact .inr (by simp [h])
      · simp only [SymMem.write, hlt, heq, if_false, List.mem_cons] at h
        rcases h with h | h
        · exact .inr (by simp [h])
        · rcases ih h with h | h
          · exact .inl h
          · exact .inr (by simp [h])

/-- A write keeps the canonical form. -/
theorem write_wf {m : SymMem} (hm : SymMem.wf m) (i : Nat) (e : Symbol) :
    SymMem.wf (SymMem.write m i e) := by
  induction m with
  | nil => simp [SymMem.write, SymMem.wf]
  | cons a m ih =>
    obtain ⟨j, x⟩ := a
    have hhead : ∀ b ∈ m, j < b.1 := (List.pairwise_cons.mp hm).1
    have htail : SymMem.wf m := (List.pairwise_cons.mp hm).2
    by_cases hlt : i < j
    · simp only [SymMem.write, hlt, if_true]
      refine List.pairwise_cons.mpr ⟨fun b hb => ?_, hm⟩
      rcases List.mem_cons.mp hb with hb | hb
      · simpa [hb] using hlt
      · exact hlt.trans (hhead b hb)
    · by_cases heq : i = j
      · subst heq
        simp only [SymMem.write, lt_irrefl, if_false, if_true]
        exact List.pairwise_cons.mpr ⟨hhead, htail⟩
      · simp only [SymMem.write, hlt, heq, if_false]
        refine List.pairwise_cons.mpr ⟨fun b hb => ?_, ih htail⟩
        rcases mem_write_index hb with hb | hb
        · simp only [hb]; omega
        · exact hhead b hb

/-- ENCODE's 24 writes keep the canonical form. -/
theorem writeFrame_wf {m : SymMem} (hm : SymMem.wf m) (c : Colour) : SymMem.wf (writeFrame c m) := by
  simp only [writeFrame, List.foldl_cons, List.foldl_nil]
  repeat apply write_wf
  exact hm

theorem reset_sym_wf : SymMem.wf State.reset.sym := List.Pairwise.nil

/-- In canonical form an index below the head is not listed. -/
theorem read_below {a : Nat × Symbol} {m : SymMem} (hm : SymMem.wf (a :: m)) {k : Nat} (hk : k < a.1) :
    SymMem.read (a :: m) k = none := by
  induction m generalizing a with
  | nil => simp [SymMem.read, hk.ne]
  | cons b m ih =>
    have hab : a.1 < b.1 := (List.pairwise_cons.mp hm).1 b (by simp)
    have := ih (List.pairwise_cons.mp hm).2 (hk.trans hab)
    simpa [SymMem.read, hk.ne] using this

/-- Equal memories are equal data: the canonical form is unique. -/
theorem wf_ext {m n : SymMem} (hm : SymMem.wf m) (hn : SymMem.wf n)
    (h : ∀ k, SymMem.read m k = SymMem.read n k) : m = n := by
  induction m generalizing n with
  | nil =>
    cases n with
    | nil => rfl
    | cons b n => simpa [SymMem.read] using h b.1
  | cons a m ih =>
    cases n with
    | nil => simpa [SymMem.read] using h a.1
    | cons b n =>
      have hidx : a.1 = b.1 := by
        rcases Nat.lt_trichotomy a.1 b.1 with hlt | heq | hlt
        · have := h a.1
          rw [read_below hn hlt] at this
          simp [SymMem.read] at this
        · exact heq
        · have := h b.1
          rw [read_below hm hlt] at this
          simp [SymMem.read] at this
      have hval : a.2 = b.2 := by
        have := h a.1
        rw [hidx] at this
        simpa [SymMem.read, hidx] using this
      have hab : a = b := Prod.ext hidx hval
      subst hab
      have hrest : ∀ k, SymMem.read m k = SymMem.read n k := fun k => by
        by_cases hk : k = a.1
        · subst hk
          have below : ∀ {l : SymMem}, SymMem.wf (a :: l) → SymMem.read l a.1 = none := fun {l} hl => by
            cases l with
            | nil => rfl
            | cons c l =>
              exact read_below (List.pairwise_cons.mp hl).2 ((List.pairwise_cons.mp hl).1 c (by simp))
          rw [below hm, below hn]
        · simpa [SymMem.read, hk] using h k
      rw [ih (List.pairwise_cons.mp hm).2 (List.pairwise_cons.mp hn).2 hrest]

/-- The bit that position `ch*8 + (7 - k)` carries (30_encoding.md R87). -/
theorem wireWord_bit (c : Colour) {ch k : Nat} (hch : ch < 3) (hk : k < 8) :
    (wireWord c).getLsbD (23 - position ch k) = (wireChannel c ch).getLsbD k := by
  have hw : ∀ n, (wireWord c).getLsbD n =
      if n < 8 then (blueOf c).getLsbD n
      else if n - 8 < 8 then (redOf c).getLsbD (n - 8) else (greenOf c).getLsbD (n - 8 - 8) := fun n => by
    simp only [wireWord, BitVec.getLsbD_append]
  rw [hw]
  interval_cases ch <;> interval_cases k <;> rfl

/-- What ENCODE's writes leave at every index (40_encoder.md R108). -/
theorem read_writeFrame (c : Colour) (m : SymMem) (p : Nat) :
    SymMem.read (writeFrame c m) p =
      if p < FRAME_SYMBOLS then some (frameSymbol c p) else SymMem.read m p := by
  have hbit : ∀ ch < 3, ∀ k < 8, symbolOf ((wireChannel c ch).getLsbD k) = frameSymbol c (position ch k) :=
    fun ch hch k hk => by rw [frameSymbol, wireWord_bit c hch hk]
  simp only [writeFrame, List.foldl_cons, List.foldl_nil, hbit 0 (by decide), hbit 1 (by decide), hbit 2 (by decide),
    show (7 : Nat) < 8 by decide, show (6 : Nat) < 8 by decide, show (5 : Nat) < 8 by decide, show (4 : Nat) < 8 by decide,
    show (3 : Nat) < 8 by decide, show (2 : Nat) < 8 by decide, show (1 : Nat) < 8 by decide, show (0 : Nat) < 8 by decide]
  simp only [position]
  by_cases hp : p < 24
  · simp only [FRAME_SYMBOLS, hp, if_true]
    interval_cases p <;> simp [read_write_same, read_write_other]
  · simp only [FRAME_SYMBOLS, hp, if_false]
    have hne : ∀ j < 24, p ≠ j := fun j hj => by omega
    simp [read_write_other, hne]

/-- A written entry holds its record. -/
theorem record_of_read {m : SymMem} {p : Nat} {e : Symbol} (h : m.read p = some e) (reset : Nat) :
    m.record reset p = e := by
  simp [SymMem.record, h]

/-- What the entries hold after ENCODE: the frame in the first 24, and what they held before in the others. -/
theorem record_writeFrame (c : Colour) (m : SymMem) (reset p : Nat) :
    (writeFrame c m).record reset p = if p < FRAME_SYMBOLS then frameSymbol c p else m.record reset p := by
  simp only [SymMem.record, read_writeFrame]
  by_cases hp : p < FRAME_SYMBOLS <;> simp [hp]

/-- What SYM holds depends on the entries written and on the reset alone: rewriting with this leaves no other field. -/
theorem symbolAt_eq (s : State) (p : Nat) : s.symbolAt p = s.sym.record s.symReset p := rfl

theorem symbolAt_of_read {s : State} {p : Nat} {e : Symbol} (h : s.sym.read p = some e) : s.symbolAt p = e :=
  record_of_read h s.symReset

/-- In a state that holds its frame, each of the 24 entries holds the record of its bit. -/
theorem symbolAt_holdsFrame {s : State} (h : s.sym = writeFrame s.color []) {p : Nat} (hp : p < FRAME_SYMBOLS) :
    s.symbolAt p = frameSymbol s.color p := by
  rw [symbolAt_eq, h, record_writeFrame, if_pos hp]

/-- What SYM holds after a reset: any value. -/
theorem symbolAt_resetBlock (s : State) (p : Nat) : (resetBlock s).symbolAt p = Symbol.free (s.tick + 1) p := rfl

/-- The frame of a colour overwrites the frame of any other (20_memory.md R54): both fill the same 24 entries. -/
theorem writeFrame_writeFrame (c d : Colour) : writeFrame d (writeFrame c []) = writeFrame d [] := by
  refine wf_ext (writeFrame_wf (writeFrame_wf List.Pairwise.nil c) d) (writeFrame_wf List.Pairwise.nil d) fun k => ?_
  simp only [read_writeFrame, SymMem.read]
  split <;> rfl

end Sys2Proof.Laws
end

