-- ==== Sys2Proof/Laws/Ops.lean ====
section
/-! SUPPORT. One lemma per shared operation that says everything it can do; the provers cite these instead of
unfolding the operation. -/

namespace Sys2Proof.Laws

open Sys2Proof Sys2Proof.Machine

/-! ### Results -/

@[simp] theorem mapNext_next (f : State → State) (s : State) :
    Result.mapNext f (.next s) = .next (f s) := rfl

@[simp] theorem mapNext_fault (f : State → State) (x : Fault) :
    Result.mapNext f (.fault x) = .fault x := rfl

@[simp] theorem mapNext_refused (f : State → State) (x : Refusal) :
    Result.mapNext f (.refused x) = .refused x := rfl

theorem mapNext_eq_next {f : State → State} {r : Result} {t : State} :
    Result.mapNext f r = .next t ↔ ∃ s, r = .next s ∧ t = f s := by
  cases r <;> simp [eq_comm]

theorem andThen_next {s : State} (h : s.seq ≠ .fault) (rest : State → Result) :
    Result.andThen (.next s) rest = rest s := by
  simp [Result.andThen, h]

theorem andThen_raised {s : State} (h : s.seq = .fault) (rest : State → Result) :
    Result.andThen (.next s) rest = .next s := by
  simp [Result.andThen, h]

/-- A chain of two operations reaches a state only by the first one's raise or by both. -/
theorem andThen_eq_next {r : Result} {rest : State → Result} {t : State} :
    Result.andThen r rest = .next t ↔
      ∃ s, r = .next s ∧ (s.seq = .fault ∧ t = s ∨ s.seq ≠ .fault ∧ rest s = .next t) := by
  cases r with
  | next s =>
    by_cases h : s.seq = .fault
    · simp [Result.andThen, h, eq_comm]
    · simp [Result.andThen, h]
  | fault x => simp [Result.andThen]
  | refused x => simp [Result.andThen]

/-! ### Inputs -/

/-- A tick moves the schedule on by one. -/
@[simp] theorem inputAt_endTick (s : State) (k : Nat) : (endTick s).inputAt k = s.inputAt (k + 1) := by
  simp only [State.inputAt, endTick_inputs, endTick_tick, List.getElem?_tail, Nat.add_assoc, Nat.add_comm 1 k]

theorem input_endTick (s : State) : (endTick s).input = s.inputAt 1 := inputAt_endTick s 0

/-- Inputs depend on the schedule and the tick index alone. -/
theorem inputAt_congr {s t : State} (hi : t.inputs = s.inputs) (ht : t.tick = s.tick) (k : Nat) :
    t.inputAt k = s.inputAt k := by
  simp only [State.inputAt, hi, ht]

theorem input_congr {s t : State} (hi : t.inputs = s.inputs) (ht : t.tick = s.tick) : t.input = s.input :=
  inputAt_congr hi ht 0

@[simp] theorem input_cons {x : TickInput} {xs : List TickInput} {s : State} (h : s.inputs = x :: xs) :
    s.input = x := by
  simp [State.input, State.inputAt, h]

@[simp] theorem input_withInput (x : TickInput) (s : State) : (withInput x s).input = x := rfl

/-! ### Decoding -/

/-- The command port reaches INIT and SEND only (30_encoding.md R83, R89). -/
theorem decodeCommand_cases {w : CmdWord} {i : Instr} (h : decodeCommand w = .instr i) :
    i = .init ∨ ∃ r g b, i = .send r g b := by
  unfold decodeCommand at h
  split at h
  · split at h
    · exact .inl (by simpa using h.symm)
    · simp at h
  · split at h
    · split at h
      · exact .inr ⟨_, _, _, by simpa using h.symm⟩
      · simp at h
    · simp at h

/-! ### The generator -/

theorem legal_iff {e : Symbol} : e.legal = true ↔ e = Symbol.one ∨ e = Symbol.zero := by
  simp [Symbol.legal]

theorem symbolOf_legal (b : Bool) : (symbolOf b).legal = true := by cases b <;> rfl

theorem frameSymbol_legal (c : Colour) (p : Nat) : (frameSymbol c p).legal = true := symbolOf_legal _

/-- The ticks of a half of a legal record: 7, 6, 4 or 8 (42_peripheral.md R147). -/
theorem halfTicks_symbolOf (b h : Bool) :
    (symbolOf b).halfTicks h = if b then (if h then 6 else 7) else (if h then 8 else 4) := by
  cases b <;> cases h <;> rfl

/-- What a tick of a record does (R147): the half goes on, the second half begins, the next symbol begins, or the
frame completes. -/
theorem runTick_cases (e : Symbol) (s : State) :
    (s.elapsed.toNat + 1 < e.halfTicks s.half ∧ runTick e s = { s with elapsed := s.elapsed + 1#16 }) ∨
    (e.halfTicks s.half ≤ s.elapsed.toNat + 1 ∧ s.half = false ∧
      runTick e s = { s with elapsed := 0#16, half := true }) ∨
    (e.halfTicks s.half ≤ s.elapsed.toNat + 1 ∧ s.half = true ∧ s.symIdx.toNat < 23 ∧
      runTick e s = { s with elapsed := 0#16, symIdx := s.symIdx + 1#5, half := false }) ∨
    (e.halfTicks s.half ≤ s.elapsed.toNat + 1 ∧ s.half = true ∧ 23 ≤ s.symIdx.toNat ∧
      runTick e s = completeFrame s) := by
  unfold runTick
  split
  · next h => exact .inl ⟨h, rfl⟩
  · next h =>
    split
    · next hh => exact .inr (.inl ⟨Nat.le_of_not_lt h, hh, rfl⟩)
    · next hh =>
      have hh : s.half = true := by simpa using hh
      split
      · next hi => exact .inr (.inr (.inl ⟨Nat.le_of_not_lt h, hh, hi, rfl⟩))
      · next hi => exact .inr (.inr (.inr ⟨Nat.le_of_not_lt h, hh, Nat.le_of_not_lt hi, rfl⟩))

/-- What a tick of the start latency does (R147). -/
theorem startTick_cases (s : State) :
    (1 < s.genStartCnt ∧ startTick s = { s with genStartCnt := s.genStartCnt - 1 }) ∨
    (s.genStartCnt ≤ 1 ∧ startTick s = beginFrame { s with genStartCnt := 0 }) := by
  unfold startTick
  split
  · next h => exact .inl ⟨h, rfl⟩
  · next h => exact .inr ⟨Nat.le_of_not_lt h, rfl⟩

/-- Everything GEN_ADVANCE can do when it answers a next state (R147). -/
theorem genAdvance_cases {s t : State} (h : genAdvance s = .next t) :
    (s.genState = .gIdle ∧ t = s) ∨
    (s.genState = .gStart ∧ t = startTick s) ∨
    (s.genState = .gRun ∧ 24 ≤ s.cfg.symbolCapacity ∧ s.symIdx.toNat < 24 ∧
      (s.symbolAt s.symIdx.toNat).legal = true ∧ t = runTick (s.symbolAt s.symIdx.toNat) s) := by
  unfold genAdvance at h
  split at h
  · next hg => exact .inl ⟨hg, by simpa using h.symm⟩
  · next hg => exact .inr (.inl ⟨hg, by simpa using h.symm⟩)
  · next hg =>
    split at h
    · next hi =>
      obtain ⟨hc, hi⟩ : 24 ≤ s.cfg.symbolCapacity ∧ s.symIdx.toNat < 24 := by simpa [frameFits] using hi
      split at h
      · next hl => exact .inr (.inr ⟨hg, hc, hi, hl, by simpa using h.symm⟩)
      · simp at h
    · simp at h

/-- The generator runs wherever its record is a legal one. -/
theorem genAdvance_run {s : State} (hg : s.genState = .gRun) (hc : 24 ≤ s.cfg.symbolCapacity)
    (hi : s.symIdx.toNat < 24) (hl : (s.symbolAt s.symIdx.toNat).legal = true) :
    genAdvance s = .next (runTick (s.symbolAt s.symIdx.toNat) s) := by
  simp [genAdvance, hg, frameFits, hc, hi, hl]

/-! ### Submission -/

/-- TRANSMIT's two starts (R145). -/
theorem submit_cases (s : State) :
    (s.cfg.startLatencyTicks = 0 ∧ submit s = beginFrame { s with qCount := s.qCount + 1 }) ∨
    (0 < s.cfg.startLatencyTicks ∧
      submit s = { s with
        qCount := s.qCount + 1
        genState := .gStart
        genStartCnt := s.cfg.startLatencyTicks }) := by
  unfold submit
  split
  · next h => exact .inl ⟨h, rfl⟩
  · next h => exact .inr ⟨Nat.pos_of_ne_zero h, rfl⟩

theorem submit_seq (s : State) : (submit s).seq = s.seq := by
  rcases submit_cases s with ⟨_, h⟩ | ⟨_, h⟩ <;> simp [h]

/-- Everything TRANSMIT can do when it answers a next state (R145). -/
theorem execTransmit_cases {n : Nat} {s t : State} (h : execTransmit n s = .next t) :
    n = LOOP_COUNT ∧ s.qCount < s.cfg.queueDepth ∧
      (s.input.txOk = false ∧ t = raise .submitRejected s ∨ s.input.txOk = true ∧ t = submit s) := by
  unfold execTransmit at h
  split at h
  · simp at h
  · next hn =>
    split at h
    · simp at h
    · next hq =>
      refine ⟨by simpa using hn, Nat.lt_of_not_le hq, ?_⟩
      split at h
      · next hx => exact .inl ⟨hx, by simpa using h.symm⟩
      · next hx => exact .inr ⟨by simpa using hx, by simpa using h.symm⟩

end Sys2Proof.Laws
end

