-- ==== Sys2Proof/Laws/PerInstr.lean ====
section
/-! SUPPORT. The per-instruction family RoundTrip: what encoding and then decoding an instruction gives. -/

namespace Sys2Proof.Laws.RoundTrip

open Sys2Proof

/-- Encoding a well-formed instruction and decoding the code gives the instruction back. -/
def Statement (i : Instr) : Prop := i.wellFormed = true → decode (encode i) = .ok i

theorem init : Statement .init := fun _ => rfl

/-- Each field of a SEND word is the byte the encoder put there (30_encoding.md R76, R80). -/
theorem send (r g b : Channel) : Statement (.send r g b) := fun _ => by
  have hop : opField (2#4 ++ 0#4 ++ r ++ g ++ b) = 2#4 := by
    ext i hi
    simp only [opField, BitVec.getElem_extractLsb', BitVec.getLsbD_append]
    interval_cases i <;> simp
  have hrsv : rsvField (2#4 ++ 0#4 ++ r ++ g ++ b) = 0#4 := by
    ext i hi
    simp only [rsvField, BitVec.getElem_extractLsb', BitVec.getLsbD_append]
    interval_cases i <;> simp
  have hr : redField (2#4 ++ 0#4 ++ r ++ g ++ b) = r := by
    ext i hi
    simp only [redField, BitVec.getElem_extractLsb', BitVec.getLsbD_append]
    interval_cases i <;> rfl
  have hg : greenField (2#4 ++ 0#4 ++ r ++ g ++ b) = g := by
    ext i hi
    simp only [greenField, BitVec.getElem_extractLsb', BitVec.getLsbD_append]
    interval_cases i <;> rfl
  have hb : blueField (2#4 ++ 0#4 ++ r ++ g ++ b) = b := by
    ext i hi
    simp only [blueField, BitVec.getElem_extractLsb', BitVec.getLsbD_append]
    interval_cases i <;> rfl
  have hd : decodeCommand (2#4 ++ 0#4 ++ r ++ g ++ b) = .instr (.send r g b) := by
    unfold decodeCommand
    rw [hop, hrsv, hr, hg, hb]
    rfl
  change (match decodeCommand (2#4 ++ 0#4 ++ r ++ g ++ b) with
    | .instr i => DecodeResult.ok i
    | .illegal .reservedOpcode => .reservedOpcode
    | .illegal .reservedBits => .reservedBits) = .ok (.send r g b)
  rw [hd]

theorem encode : Statement .encode := fun _ => rfl

theorem configure : Statement .configure := fun _ => rfl

theorem createCopyEncoder : Statement .createCopyEncoder := fun _ => rfl

theorem enable : Statement .enable := fun _ => rfl

/-- Only a loop count of 1 is well-formed, and it is what the code stands for (42_peripheral.md R150). -/
theorem transmit (loopCount : Nat) : Statement (.transmit loopCount) := fun h => by
  obtain rfl : loopCount = 1 := by simpa [Instr.wellFormed] using h
  rfl

theorem waitComplete : Statement .waitComplete := fun _ => rfl

theorem holdLow : Statement .holdLow := fun _ => rfl

end Sys2Proof.Laws.RoundTrip
end

