-- ==== Sys2Proof/Laws/Step.lean ====
section
/-! SUPPORT. What a tick can do, said once: the cases of the sequencer's tick and the inversion of the step. Every
claim over all steps is a case split over these. -/

namespace Sys2Proof.Laws

open Sys2Proof Sys2Proof.Machine

/-- The state in which a SEND has latched its colour and ENCODE has written its frame (41_transmitter.md R127). -/
abbrev encodedState (r g b : Channel) (s : State) : State :=
  { s with color := colourOf r g b, sym := writeFrame (colourOf r g b) s.sym }

/-- The state after an accepted SEND (R127). -/
abbrev sentState (r g b : Channel) (s : State) : State :=
  { submit (encodedState r g b s) with waitCnt := 0, seq := .tx }

/-- Everything a tick without reset can do (R121), one case per way through the pseudocode. -/
inductive TickCase (s : State) : State → Prop where
  | noCommand (hr : cmdReady s = true) (ha : accepted s = false) : TickCase s s
  | illegal (sub : IllegalSub) (ha : accepted s = true)
      (hd : decodeCommand s.input.cmdWord = .illegal sub) : TickCase s (raise (Cause.ofIllegal sub) s)
  | initAccepted (hs : s.seq = .uninit) (ha : accepted s = true)
      (hd : decodeCommand s.input.cmdWord = .instr .init) : TickCase s (initAccept s)
  | initAgain (hs : s.seq = .idle) (ha : accepted s = true)
      (hd : decodeCommand s.input.cmdWord = .instr .init) : TickCase s (raise .alreadyInitialized s)
  | sendEarly (r g b : Channel) (hs : s.seq = .uninit) (ha : accepted s = true)
      (hd : decodeCommand s.input.cmdWord = .instr (.send r g b)) : TickCase s (raise .notInitialized s)
  | sendRejected (r g b : Channel) (hs : s.seq = .idle) (ha : accepted s = true)
      (hd : decodeCommand s.input.cmdWord = .instr (.send r g b)) (hf : frameFits s.cfg = true)
      (hq : s.qCount < s.cfg.queueDepth) (hx : s.input.txOk = false) :
      TickCase s (raise .submitRejected (encodedState r g b s))
  | sendAccepted (r g b : Channel) (hs : s.seq = .idle) (ha : accepted s = true)
      (hd : decodeCommand s.input.cmdWord = .instr (.send r g b)) (hf : frameFits s.cfg = true)
      (hq : s.qCount < s.cfg.queueDepth) (hx : s.input.txOk = true) : TickCase s (sentState r g b s)
  | initCount (hs : s.seq = .initBusy) (hc : 1 < s.initCnt) :
      TickCase s { s with initCnt := s.initCnt - 1 }
  | configRejected (hs : s.seq = .initBusy) (hc : s.initCnt ≤ 1) (hp : paramsLegal s.cfg = false) :
      TickCase s (raise .configRejected s)
  | resourceUnavailable (hs : s.seq = .initBusy) (hc : s.initCnt ≤ 1) (hp : paramsLegal s.cfg = true)
      (hx : s.input.configureOk = false) : TickCase s (raise .resourceUnavailable s)
  | encoderUnavailable (hs : s.seq = .initBusy) (hc : s.initCnt ≤ 1) (hp : paramsLegal s.cfg = true)
      (hx : s.input.configureOk = true) (hy : s.input.copyEncOk = false) :
      TickCase s (raise .encoderUnavailable { s with chanAlloc := true })
  | enableFailed (hs : s.seq = .initBusy) (hc : s.initCnt ≤ 1) (hp : paramsLegal s.cfg = true)
      (hx : s.input.configureOk = true) (hy : s.input.copyEncOk = true) (hz : s.input.enableOk = false) :
      TickCase s (raise .enableFailed { s with chanAlloc := true, copyEnc := true })
  | initCompleted (hs : s.seq = .initBusy) (hc : s.initCnt ≤ 1) (hp : paramsLegal s.cfg = true)
      (hx : s.input.configureOk = true) (hy : s.input.copyEncOk = true) (hz : s.input.enableOk = true) :
      TickCase s (initDoneState { s with chanAlloc := true, copyEnc := true, chanEn := true })
  | waitFailed (hs : s.seq = .tx) (hx : s.input.waitErr = true) : TickCase s (raise .waitFailed s)
  | timeout (hs : s.seq = .tx) (hx : s.input.waitErr = false) (ht : timedOut s = true) :
      TickCase s (raise .timeout s)
  | generator (t : State) (hs : s.seq = .tx) (hx : s.input.waitErr = false) (ht : timedOut s = false)
      (hg : genAdvance { s with waitCnt := s.waitCnt + 1 } = .next t) : TickCase s t
  | holdCount (hs : s.seq = .hold) (hc : 1 < s.holdCnt) : TickCase s { s with holdCnt := s.holdCnt - 1 }
  | holdDone (hs : s.seq = .hold) (hc : s.holdCnt ≤ 1) : TickCase s { s with holdCnt := 0, seq := .idle }
  | halted (hs : s.seq = .fault) : TickCase s s

/-- Everything SEND's acceptance can do in IDLE (R127). -/
theorem sendAccept_cases {r g b : Channel} {s t : State} (hs : s.seq = .idle)
    (h : sendAccept r g b s = .next t) :
    frameFits s.cfg = true ∧ s.qCount < s.cfg.queueDepth ∧
      (s.input.txOk = false ∧ t = raise .submitRejected (encodedState r g b s) ∨
        s.input.txOk = true ∧ t = sentState r g b s) := by
  unfold sendAccept at h
  obtain ⟨u, hu, h⟩ := andThen_eq_next.mp h
  unfold execEncode at hu
  split at hu
  · next hf =>
    have hu : u = encodedState r g b s := by simpa using hu.symm
    subst hu
    have hseq : (encodedState r g b s).seq ≠ .fault := by simp [hs]
    rcases h with ⟨hc, _⟩ | ⟨_, h⟩
    · exact absurd hc hseq
    · obtain ⟨v, hv, h⟩ := andThen_eq_next.mp h
      obtain ⟨_, hq, ⟨hx, rfl⟩ | ⟨hx, rfl⟩⟩ := execTransmit_cases hv
      · refine ⟨hf, hq, .inl ⟨hx, ?_⟩⟩
        rcases h with ⟨_, h⟩ | ⟨hc, _⟩
        · exact h
        · exact absurd rfl hc
      · refine ⟨hf, hq, .inr ⟨hx, ?_⟩⟩
        rcases h with ⟨hc, _⟩ | ⟨_, h⟩
        · rw [submit_seq] at hc
          exact absurd hc hseq
        · simpa using h.symm
  · simp at hu

theorem execConfigure_ok {s : State} (hp : paramsLegal s.cfg = true) (hx : s.input.configureOk = true) :
    execConfigure s = .next { s with chanAlloc := true } := by
  simp [execConfigure, hp, hx]

theorem execCreateCopyEncoder_ok {s : State} (hx : s.input.copyEncOk = true) :
    execCreateCopyEncoder s = .next { s with copyEnc := true } := by
  simp [execCreateCopyEncoder, hx]

theorem execEnable_ok {s : State} (hx : s.input.enableOk = true) :
    execEnable s = .next { s with chanEn := true } := by
  simp [execEnable, hx]

/-- INIT_COMPLETE written out: the three operations in their order, then the end of INIT (R124). -/
theorem initComplete_eq (s : State) :
    initComplete s =
      Result.andThen
        (Result.andThen (execConfigure s) fun s =>
          Result.andThen (execCreateCopyEncoder s) fun s => Result.andThen (execEnable s) fun s => .next s)
        fun s => .next (initDoneState s) := rfl

/-- Everything INIT's completion can do (R124). -/
theorem initComplete_cases {s t : State} (hs : s.seq = .initBusy) (hc : s.initCnt ≤ 1)
    (h : initComplete s = .next t) : TickCase s t := by
  have hseq : s.seq ≠ .fault := by simp [hs]
  rw [initComplete_eq] at h
  by_cases hp : paramsLegal s.cfg = true
  case neg =>
    have hp : paramsLegal s.cfg = false := by simpa using hp
    have h1 : execConfigure s = .next (raise .configRejected s) := by simp [execConfigure, hp]
    rw [h1, andThen_raised rfl, andThen_raised rfl] at h
    exact Host.Outcome.next.inj h ▸ .configRejected hs hc hp
  by_cases hx : s.input.configureOk = true
  case neg =>
    have hx : s.input.configureOk = false := by simpa using hx
    have h1 : execConfigure s = .next (raise .resourceUnavailable s) := by simp [execConfigure, hp, hx]
    rw [h1, andThen_raised rfl, andThen_raised rfl] at h
    exact Host.Outcome.next.inj h ▸ .resourceUnavailable hs hc hp hx
  rw [execConfigure_ok hp hx, andThen_next (s := { s with chanAlloc := true }) hseq] at h
  by_cases hy : s.input.copyEncOk = true
  case neg =>
    have hy : s.input.copyEncOk = false := by simpa using hy
    have h1 : execCreateCopyEncoder { s with chanAlloc := true } =
        .next (raise .encoderUnavailable { s with chanAlloc := true }) := if_pos hy
    rw [h1, andThen_raised rfl, andThen_raised rfl] at h
    exact Host.Outcome.next.inj h ▸ .encoderUnavailable hs hc hp hx hy
  have hy' : ({ s with chanAlloc := true } : State).input.copyEncOk = true := hy
  rw [execCreateCopyEncoder_ok hy', andThen_next (s := { s with chanAlloc := true, copyEnc := true }) hseq] at h
  by_cases hz : s.input.enableOk = true
  case neg =>
    have hz : s.input.enableOk = false := by simpa using hz
    have h1 : execEnable { s with chanAlloc := true, copyEnc := true } =
        .next (raise .enableFailed { s with chanAlloc := true, copyEnc := true }) := if_pos hz
    rw [h1, andThen_raised rfl, andThen_raised rfl] at h
    exact Host.Outcome.next.inj h ▸ .enableFailed hs hc hp hx hy hz
  have hz' : ({ s with chanAlloc := true, copyEnc := true } : State).input.enableOk = true := hz
  rw [execEnable_ok hz',
    andThen_next (s := { s with chanAlloc := true, copyEnc := true, chanEn := true }) hseq,
    andThen_next (s := { s with chanAlloc := true, copyEnc := true, chanEn := true }) hseq] at h
  exact Host.Outcome.next.inj h ▸ .initCompleted hs hc hp hx hy hz

/-- The cases of a tick that is ready for a command. -/
theorem readyTick_cases {s t : State} (hr : cmdReady s = true) (h : readyTick s = .next t) : TickCase s t := by
  unfold readyTick at h
  split at h
  · next ha =>
    unfold acceptCommand at h
    split at h
    · next i hd =>
      have hseq : s.seq = .uninit ∨ s.seq = .idle := by
        revert hr
        unfold cmdReady
        cases s.seq <;> simp
      rcases decodeCommand_cases hd with rfl | ⟨r, g, b, rfl⟩
      · rcases hseq with hs | hs
        · simp only [exec, execInit, hs] at h
          obtain rfl : initAccept s = t := by simpa using h
          exact .initAccepted hs ha hd
        · simp only [exec, execInit, hs] at h
          obtain rfl : raise .alreadyInitialized s = t := by simpa using h
          exact .initAgain hs ha hd
      · rcases hseq with hs | hs
        · simp only [exec, execSend, hs] at h
          obtain rfl : raise .notInitialized s = t := by simpa using h
          exact .sendEarly r g b hs ha hd
        · simp only [exec, execSend, hs] at h
          obtain ⟨hf, hq, ⟨hx, rfl⟩ | ⟨hx, rfl⟩⟩ := sendAccept_cases hs h
          · exact .sendRejected r g b hs ha hd hf hq hx
          · exact .sendAccepted r g b hs ha hd hf hq hx
    · next sub hd =>
      obtain rfl : raise (Cause.ofIllegal sub) s = t := by simpa using h
      exact .illegal sub ha hd
  · next ha =>
    obtain rfl : s = t := by simpa using h
    exact .noCommand hr (by simpa using ha)

/-- Everything a tick without reset can do. -/
theorem sequencerTick_cases {s t : State} (h : sequencerTick s = .next t) : TickCase s t := by
  unfold sequencerTick at h
  split at h
  · next hs => exact readyTick_cases (by simp [cmdReady, hs]) h
  · next hs =>
    unfold initBusyTick at h
    split at h
    · next hc =>
      obtain rfl : { s with initCnt := s.initCnt - 1 } = t := by simpa using h
      exact .initCount hs hc
    · next hc => exact initComplete_cases hs (Nat.le_of_not_lt hc) h
  · next hs => exact readyTick_cases (by simp [cmdReady, hs]) h
  · next hs =>
    simp only [exec, execWaitComplete] at h
    split at h
    · next hx =>
      obtain rfl : raise .waitFailed s = t := by simpa using h
      exact .waitFailed hs hx
    · next hx =>
      split at h
      · next ht =>
        obtain rfl : raise .timeout s = t := by simpa using h
        exact .timeout hs (by simpa using hx) ht
      · next ht => exact .generator t hs (by simpa using hx) (by simpa using ht) h
  · next hs =>
    simp only [exec, execHoldLow] at h
    split at h
    · next hc =>
      obtain rfl : { s with holdCnt := s.holdCnt - 1 } = t := by simpa using h
      exact .holdCount hs hc
    · next hc =>
      obtain rfl : { s with holdCnt := 0, seq := .idle } = t := by simpa using h
      exact .holdDone hs (Nat.le_of_not_lt hc)
  · next hs =>
    obtain rfl : s = t := by simpa using h
    exact .halted hs

/-- The inversion of the step: a reset tick, or a tick of the sequencer; then the inputs move on. -/
theorem step_cases {s t : State} (h : step s = .next t) :
    (s.input.rst = true ∧ t = endTick (resetBlock s)) ∨
    (s.input.rst = false ∧ ∃ u, TickCase s u ∧ t = endTick u) := by
  obtain ⟨u, hu, rfl⟩ := mapNext_eq_next.mp (show Result.mapNext endTick _ = .next t from h)
  split at hu
  · next hr => exact .inl ⟨hr, by rw [Host.Outcome.next.inj hu]⟩
  · next hr => exact .inr ⟨by simpa using hr, u, sequencerTick_cases hu, rfl⟩

/-! ### The schedule -/

/-- The generator leaves the schedule and its index. -/
theorem genAdvance_schedule {s t : State} (h : genAdvance s = .next t) : t.inputs = s.inputs ∧ t.tick = s.tick := by
  rcases genAdvance_cases h with ⟨_, rfl⟩ | ⟨_, rfl⟩ | ⟨_, _, _, _, rfl⟩
  · exact ⟨rfl, rfl⟩
  · rcases startTick_cases s with ⟨_, h⟩ | ⟨_, h⟩ <;> simp [h]
  · rcases runTick_cases (s.symbolAt s.symIdx.toNat) s with ⟨_, h⟩ | ⟨_, _, h⟩ | ⟨_, _, _, h⟩ | ⟨_, _, _, h⟩ <;> simp [h]

/-- Nothing that a tick does touches the schedule or its index. -/
theorem TickCase.schedule {s t : State} (h : TickCase s t) : t.inputs = s.inputs ∧ t.tick = s.tick := by
  cases h
  case generator hg => exact ⟨(genAdvance_schedule hg).1, (genAdvance_schedule hg).2⟩
  case sendAccepted r g b _ _ _ _ _ _ => rcases submit_cases (encodedState r g b s) with ⟨_, h⟩ | ⟨_, h⟩ <;> simp [h]
  all_goals exact ⟨rfl, rfl⟩

/-- A step moves the schedule on by one tick. -/
theorem step_inputAt {s t : State} (h : step s = .next t) (j : Nat) : t.inputAt j = s.inputAt (j + 1) := by
  rcases step_cases h with ⟨_, rfl⟩ | ⟨_, u, hu, rfl⟩
  · exact (inputAt_endTick _ j).trans (inputAt_congr (resetBlock_inputs s) (resetBlock_tick s) (j + 1))
  · exact (inputAt_endTick u j).trans (inputAt_congr hu.schedule.1 hu.schedule.2 (j + 1))

/-- `k` ticks move it on by `k`. -/
theorem runTicks_inputAt {k : Nat} {s t : State} (h : runTicks k s = .next t) (j : Nat) :
    t.inputAt j = s.inputAt (j + k) := by
  induction k generalizing s with
  | zero => rw [Host.Outcome.next.inj h, Nat.add_zero]
  | succ k ih =>
    unfold runTicks at h
    split at h
    · next u hu => rw [ih h, step_inputAt hu, Nat.add_assoc]
    · simp at h
    · simp at h

end Sys2Proof.Laws
end

