-- ==== Sys2Proof/Tests/Slice0.lean ====
section
/-! SUPPORT. Tests whose expected results come from spec/95_test_vectors.md or from hand calculation by the rules, and
one witness for the hypotheses of every statement of Certificates/Slice0/Obligations.lean. -/

namespace Sys2Proof.Tests

open Sys2Proof Sys2Proof.Machine

/-! ### Well-formedness -/

theorem test_wellFormed_refuses_loop_count_two : (Instr.transmit 2).wellFormed = false := by decide
theorem test_wellFormed_refuses_loop_count_zero : (Instr.transmit 0).wellFormed = false := by decide
theorem test_wellFormed_accepts_loop_count_one : (Instr.transmit 1).wellFormed = true := by decide

/-! ### Decoding: words written out from 30_encoding.md R76 to R79 and R88, and 95 section 2.1 -/

theorem test_decode_init : decode (.command 0b00010000000000000000000000000000#32) = .ok .init := by decide
theorem test_decode_send :
    decode (.command 0b00100000000100100011010001010110#32) = .ok (.send 0x12#8 0x34#8 0x56#8) := by decide
theorem test_decode_encode : decode (.internal 0b0001#4) = .ok .encode := by decide
theorem test_decode_configure : decode (.internal 0b0010#4) = .ok .configure := by decide
theorem test_decode_createCopyEncoder : decode (.internal 0b0011#4) = .ok .createCopyEncoder := by decide
theorem test_decode_enable : decode (.internal 0b0100#4) = .ok .enable := by decide
theorem test_decode_transmit : decode (.internal 0b0101#4) = .ok (.transmit 1) := by decide
theorem test_decode_waitComplete : decode (.internal 0b0110#4) = .ok .waitComplete := by decide
theorem test_decode_holdLow : decode (.internal 0b0111#4) = .ok .holdLow := by decide
theorem test_decode_unassigned :
    decode (.internal 0x0#4) = .unassignedCode ∧ decode (.internal 0x8#4) = .unassignedCode := by decide
theorem test_decode_reserved_bits :
    [0x10000001#32, 0x11000000#32, 0x1000FF00#32, 0x21000000#32, 0x2FFFFFFF#32].map (fun w => decode (.command w))
      = List.replicate 5 .reservedBits := by decide
theorem test_decode_reserved_opcode :
    [0x00000000#32, 0x30000000#32, 0xF0000000#32, 0xFFFFFFFF#32].map (fun w => decode (.command w))
      = List.replicate 4 .reservedOpcode := by decide
theorem test_decodeTableWord :
    decodeTableWord 32 0x10000000 = some .init ∧ decodeTableWord 32 0x20000000 = some (.send 0#8 0#8 0#8) ∧
    decodeTableWord 8 0x1 = some .encode ∧ decodeTableWord 8 0x7 = some .holdLow ∧
    decodeTableWord 32 0x1 = none ∧ decodeTableWord 8 0x8 = none := by decide

/-! ### The assembler: 95 section 2.1 -/

theorem test_asm_comment_and_hex :
    assembleLine [' ', 's', 'e', 'n', 'd', ' ', '0', 'x', '1', '2', ',', '5', '2', ' ', ',', ' ', '0', 'x', '5', '6', ';', 'x']
      = .word 0x20123456#32 := by decide
theorem test_asm_errors :
    assembleLine ['S', 'E', 'N', 'D', ' ', '2', '5', '6', ',', '0', ',', '0'] = .error .outOfRange ∧
    assembleLine ['S', 'E', 'N', 'D', ' ', '1', ',', ' ', '2'] = .error .wrongOperandCount := by decide

/-! ### States of the tests -/

/-- A tick in which the host presents SEND r, g, b and nothing fails. -/
def sendInput (r g b : Channel) : TickInput := TickInput.present (0x20#8 ++ r ++ g ++ b)

/-- UNINIT with this input. -/
def uninitWith (x : TickInput) : State := withInput x State.reset

/-- IDLE after INIT with this input. -/
def idleWith (x : TickInput) : State := withInput x (idleState State.reset)

/-- The last INIT_BUSY tick with this input. -/
def lastInitWith (x : TickInput) : State := withInput x (lastInitState State.reset)

/-- The first TX tick of the colour 0 with this input. -/
def txWith (x : TickInput) : State := withInput x (firstTxState State.reset)

/-- The last tick of the frame of the colour 0: symbol 23, second half, its 8th tick. -/
def lastTxWith (x : TickInput) : State :=
  { txWith x with symIdx := 23#5, half := true, elapsed := 7#16, waitCnt := 287 }

/-- A HOLD tick with this input. -/
def holdWith (x : TickInput) : State := withInput x (firstHoldState State.reset)

/-- FAULT with this input. -/
def faultWith (x : TickInput) : State := withInput x (raise .waitFailed State.reset)

/-- A parameter set with another capacity, queue depth, start latency or wait window. -/
def otherCfg (capacity depth latency : Nat) (window : Option Nat) : Config.Params :=
  { Config.Params.spec with
    symbolCapacity := capacity
    queueDepth := depth
    startLatencyTicks := latency
    waitTimeoutTicks := window }

/-- The STATUS word after one step. -/
def statusAfter (s : State) : Option CmdWord := (Result.next? (step s)).map status

/-! ### One step of each instruction: 95 sections 2.4 to 2.8 -/

theorem test_reset_status : status State.reset = 0x00000008#32 := by decide
theorem test_init_accepted : statusAfter (uninitWith (TickInput.present 0x10000000#32)) = some 0x00001002#32 := by decide
theorem test_init_twice : statusAfter (idleWith (TickInput.present 0x10000000#32)) = some 0x0000F515#32 := by decide
theorem test_send_accepted : statusAfter (idleWith (sendInput 0#8 255#8 0#8)) = some 0x00403003#32 := by decide
theorem test_send_before_init : statusAfter (uninitWith (sendInput 0#8 255#8 0#8)) = some 0x0000F224#32 := by decide
/-- Row 0x800100 of 95 section 2.2: g[0] is at position 7 and r[7] at position 8. -/
theorem test_encode_channel_boundary :
    ((Result.next? (exec .encode { State.reset with color := 0x800100#24 })).map fun t =>
      (t.sym.filter fun a => a.2 == Symbol.one).map Prod.fst) = some [7, 8] := by decide
theorem test_encode_length :
    ((Result.next? (exec .encode State.reset)).map fun t => t.sym.length) = some 24 := by decide
theorem test_configure_rejected_wins :
    statusAfter { lastInitWith { TickInput.quiet with configureOk := false } with cfg := otherCfg 23 1 0 none }
      = some 0x0000F214#32 := by decide
theorem test_configure_unavailable :
    statusAfter (lastInitWith { TickInput.quiet with configureOk := false }) = some 0x0000F114#32 := by decide
theorem test_createCopyEncoder_unavailable :
    statusAfter (lastInitWith { TickInput.quiet with copyEncOk := false }) = some 0x0000F314#32 := by decide
theorem test_enable_failed_keeps_handles :
    ((Result.next? (step (lastInitWith { TickInput.quiet with enableOk := false }))).map fun t =>
      (status t, t.chanAlloc, t.copyEnc, t.chanEn)) = some (0x0000F414#32, true, true, false) := by decide
theorem test_enable_completes_init : statusAfter (lastInitWith TickInput.quiet) = some 0x00002009#32 := by decide
theorem test_transmit_rejected :
    ((Result.next? (step (idleWith { sendInput 0x12#8 0x34#8 0x56#8 with txOk := false }))).map fun t =>
      (status t, t.color, t.sym.length)) = some (0x0000F125#32, 0x123456#24, 24) := by decide
theorem test_transmit_start_latency :
    ((Result.next? (step { idleWith (sendInput 0#8 255#8 0#8) with cfg := otherCfg 24 1 3 none })).map fun t =>
      (t.genState, t.genStartCnt)) = some (.gStart, 3) := by decide
theorem test_waitComplete_failures :
    statusAfter (lastTxWith { TickInput.quiet with waitErr := true }) = some 0x0000F325#32 ∧
    statusAfter { txWith TickInput.quiet with cfg := otherCfg 24 1 0 (some 100), waitCnt := 100 } =
      some 0x0000F135#32 := by decide
theorem test_waitComplete_completes :
    ((Result.next? (step (lastTxWith TickInput.quiet))).map fun t => (status t, t.holdCnt)) =
      some (0x00004003#32, 10000) := by decide
theorem test_holdLow_counts :
    ((Result.next? (step (holdWith TickInput.quiet))).map fun t => (status t, t.holdCnt)) =
      some (0x00004003#32, 9999) := by decide
theorem test_holdLow_ends :
    statusAfter { holdWith TickInput.quiet with holdCnt := 1 } = some 0x00002009#32 := by decide
theorem test_illegal_word_before_state_check :
    statusAfter (uninitWith (TickInput.present 0x21000000#32)) = some 0x0000F244#32 := by decide
theorem test_reset_from_fault :
    statusAfter (faultWith { TickInput.quiet with rst := true }) = some 0x00000008#32 := by decide

/-- Every row of the opcode table runs as the next step after reset (log 11). -/
theorem test_table_rows_run :
    ([(32, 0x10000000), (32, 0x20000000), (8, 1), (8, 2), (8, 3), (8, 4), (8, 5), (8, 6), (8, 7)].map fun a =>
      (Result.next? (step (State.reset.withFetchWord a.1 a.2))).map fun t => t.seq) =
    [some .initBusy, some .fault, some .tx, some .idle, some .idle, some .idle, some .tx, some .tx, some .hold] := by
  decide

/-- After reset every entry of SYM holds a record of which nothing is known (10_state.md R49), and another reset leaves
another one. -/
theorem test_reset_symbols_are_free :
    State.reset.symbolAt 0 = Symbol.free 0 0 ∧
    ((Result.next? (step (txWith { TickInput.quiet with rst := true }))).map fun t => t.symbolAt 23) =
      some (Symbol.free 1 23) := ⟨rfl, rfl⟩

/-! ### The reference receiver: 95 section 2.9 -/

/-- A high run of 1 tick spoils the frame at the first low tick. -/
theorem test_receiver_bad_run :
    ((⟨[true], some 0x00FF00#24, 0, 0⟩ : Receiver).watch [true, false]).latched = none := by decide
/-- 24 bits held latch `{r, g, b}` at the 500th low tick; the first bit is g[7]. -/
theorem test_receiver_latches :
    ((⟨true :: List.replicate 23 false, none, 499, 0⟩ : Receiver).watch [false]).latched = some 0x008000#24 := by decide

/-! ### States that meet the invariant -/

theorem inv_uninit (x : TickInput) : StateInv (uninitWith x) := by
  constructor <;> simp [uninitWith, withInput, State.reset, State.resetOf, NoFrameYet]

/-- IDLE after INIT, of a machine with other parameters and any schedule. -/
def idleOf (cfg : Config.Params) (inputs : List TickInput) : State :=
  { idleState (State.resetOf cfg inputs 0) with inputs := inputs }

theorem inv_idle (cfg : Config.Params) (inputs : List TickInput) (h : paramsLegal cfg = true) :
    StateInv (idleOf cfg inputs) := by
  constructor <;> simp [idleOf, idleState, State.resetOf, NoFrameYet, h]

theorem txWith_position : 0 < (frameSymbol 0#24 0).halfTicks false := by decide

theorem inv_tx (x : TickInput) : StateInv (txWith x) := by
  constructor <;>
    simp [txWith, withInput, firstTxState, idleState, State.reset, State.resetOf, beginFrame, NoFrameYet, HoldsFrame,
      txWith_position, show paramsLegal Config.Params.spec = true by decide]

/-- A schedule of one input and then quiet ticks gives every tick an input with a property both have. -/
theorem scheduled {P : TickInput → Prop} {s : State} {x : TickInput} {m n : Nat}
    (hs : s.inputs = x :: List.replicate m TickInput.quiet) (hx : P x) (hq : P TickInput.quiet) (hn : n ≤ m + 1) :
    ∀ j < n, P (s.inputAt j) := by
  intro j hj
  cases j with
  | zero => simpa [State.inputAt, hs] using hx
  | succ j =>
    have : j < m := by omega
    simpa [State.inputAt, hs, List.getElem?_replicate, this] using hq

/-- After the first tick of such a schedule the host presents nothing. -/
theorem scheduled_quiet {s : State} {x : TickInput} {m j : Nat} (hs : s.inputs = x :: List.replicate m TickInput.quiet)
    (hj : j < m) : s.inputAt (j + 1) = TickInput.quiet := by
  simp [State.inputAt, hs, hj]

/-- IDLE, SEND 0, 255, 0 presented now, and 11000 quiet ticks after it. -/
def sending (cfg : Config.Params) : State :=
  idleOf cfg (sendInput 0#8 255#8 0#8 :: List.replicate 11000 TickInput.quiet)

theorem sending_noReset (cfg : Config.Params) {n : Nat} (h : n ≤ 11001) : NoReset n (sending cfg) :=
  scheduled (P := fun x => x.rst = false) rfl rfl rfl h

theorem sending_noFailure (cfg : Config.Params) {n : Nat} (h : n ≤ 11001) : NoPeripheralFailure n (sending cfg) :=
  scheduled (P := fun x => x.noFailure = true) rfl rfl rfl h

theorem frameTicks_green : frameTicks (colourOf 0#8 255#8 0#8) = 296 := by decide

/-! ### Witnesses: encodings and the ENCODER -/

theorem witness_InitIsTheOneWord :
    (0x1FFFFFFF#32).extractLsb' 28 4 = 0x1#4 ∧ (0x1FFFFFFF#32).extractLsb' 0 28 ≠ 0#28 := by decide
theorem witness_SendIsEveryMaskedWord :
    decodeCommand 0x20FFFFFF#32 = .instr (.send 255#8 255#8 255#8) ∧ 0x20FFFFFF#32 &&& 0xFF000000#32 = 0x20000000#32 := by
  decide
theorem witness_EncodeThenDecodeIsIdentity :
    (Instr.send 255#8 0#8 1#8).wellFormed = true ∧ (Instr.transmit 1).wellFormed = true := by decide
theorem witness_DecodeThenEncodeIsIdentity : decode (.internal 0x5#4) = .ok (.transmit 1) := by decide
theorem witness_SendLineAssembles :
    (['s', 'e', 'N', 'D'].map Char.toUpper = ['S', 'E', 'N', 'D'] ∧ ['i', 'N', 'i', 't'].map Char.toUpper = ['I', 'N', 'I', 'T']) ∧
    (255 ≤ 255 ∧ 0 ≤ 255 ∧ 18 ≤ 255) ∧ 255 < 256 := by decide
theorem witness_EncodeWritesTheFrame : 24 ≤ State.reset.cfg.symbolCapacity := by decide
theorem witness_EncodeStopsBelowCapacity :
    ({ State.reset with cfg := otherCfg 23 1 0 none } : State).cfg.symbolCapacity < 24 := by decide
theorem witness_EncodeDependsOnColourAlone :
    (uninitWith TickInput.quiet).color = (idleWith TickInput.quiet).color ∧
    (∃ t, exec .encode (uninitWith TickInput.quiet) = .next t) ∧
    (∃ t, exec .encode (idleWith TickInput.quiet) = .next t) := ⟨rfl, ⟨_, rfl⟩, ⟨_, rfl⟩⟩
theorem witness_DistinctColoursGiveDistinctFrames :
    frameList 0x000001#24 = frameList 0x000001#24 ∧ frameList 0x000001#24 ≠ frameList 0x000100#24 ∧ 23 < 24 := by decide
theorem witness_FrameIsGreenRedBlueMsbFirst :
    State.reset.color = 0#24 ∧ 24 ≤ State.reset.cfg.symbolCapacity := by decide

/-! ### Witnesses: INIT and its operations -/

theorem witness_ConfigureAllocatesTheChannel :
    (paramsLegal State.reset.cfg = true ∧ (lastInitWith TickInput.quiet).input.configureOk = true) ∧
    paramsLegal (otherCfg 24 0 0 none) = false ∧
    (lastInitWith { TickInput.quiet with configureOk := false }).input.configureOk = false := by decide
theorem witness_CopyEncoderAndEnableSetTheirHandles :
    (lastInitWith TickInput.quiet).input.copyEncOk = true ∧ (lastInitWith TickInput.quiet).input.enableOk = true ∧
    (lastInitWith { TickInput.quiet with copyEncOk := false }).input.copyEncOk = false ∧
    (lastInitWith { TickInput.quiet with enableOk := false }).input.enableOk = false := by decide
theorem witness_InitAcceptedInUninit : State.reset.seq = .uninit := by decide
theorem witness_LastInitTickRunsTheThreeOperations :
    let s := lastInitWith TickInput.quiet
    let t := { lastInitWith TickInput.quiet with cfg := otherCfg 23 1 0 none }
    (s.seq = .initBusy ∧ s.initCnt = 1 ∧ s.input.rst = false ∧ paramsLegal s.cfg = true ∧
      s.input.configureOk = true ∧ s.input.copyEncOk = true ∧ s.input.enableOk = true) ∧
    (t.seq = .initBusy ∧ t.initCnt = 1 ∧ t.input.rst = false ∧ paramsLegal t.cfg = false) := by decide
theorem witness_LastInitTickRunsTheThreeOperations_failures :
    let s := lastInitWith { TickInput.quiet with configureOk := false }
    let t := lastInitWith { TickInput.quiet with copyEncOk := false }
    let u := lastInitWith { TickInput.quiet with enableOk := false }
    (s.seq = .initBusy ∧ s.initCnt = 1 ∧ s.input.rst = false ∧ paramsLegal s.cfg = true ∧ s.input.configureOk = false) ∧
    (t.seq = .initBusy ∧ t.initCnt = 1 ∧ t.input.rst = false ∧ paramsLegal t.cfg = true ∧ t.input.configureOk = true ∧
      t.input.copyEncOk = false) ∧
    (u.seq = .initBusy ∧ u.initCnt = 1 ∧ u.input.rst = false ∧ paramsLegal u.cfg = true ∧ u.input.configureOk = true ∧
      u.input.copyEncOk = true ∧ u.input.enableOk = false) := by decide

/-- UNINIT, INIT presented now, one quiet tick after it. -/
def initializing : State :=
  { State.reset with inputs := TickInput.present 0x10000000#32 :: List.replicate 1 TickInput.quiet }

theorem witness_InitTakesItsLatency :
    StateInv initializing ∧ initializing.seq = .uninit ∧ initializing.input.cmdValid = true ∧
    decodeCommand initializing.input.cmdWord = .instr .init ∧ paramsLegal initializing.cfg = true ∧
    NoReset (initializing.input.initLatency + 1) initializing ∧
    NoPeripheralFailure (initializing.input.initLatency + 1) initializing :=
  ⟨by constructor <;> simp [initializing, State.reset, State.resetOf, NoFrameYet], rfl, rfl, by decide, by decide,
    scheduled (P := fun x => x.rst = false) rfl rfl rfl (by decide),
    scheduled (P := fun x => x.noFailure = true) rfl rfl rfl (by decide)⟩

theorem witness_SecondInitFaults :
    let s := idleWith (TickInput.present 0x10000000#32)
    let t := txWith (TickInput.present 0x10000000#32)
    (s.input.rst = false ∧ s.input.cmdValid = true ∧ decodeCommand s.input.cmdWord = .instr .init ∧ s.seq = .idle) ∧
    (t.input.rst = false ∧ t.input.cmdValid = true ∧ decodeCommand t.input.cmdWord = .instr .init ∧ t.seq = .tx) := by
  decide

/-! ### Witnesses: SEND, TRANSMIT, WAIT_COMPLETE, HOLD_LOW -/

theorem witness_SendAcceptedInIdle :
    let s := idleWith (sendInput 1#8 2#8 3#8)
    let t := { s with cfg := otherCfg 24 1 1 none }
    (s.seq = .idle ∧ 24 ≤ s.cfg.symbolCapacity ∧ s.qCount < s.cfg.queueDepth ∧ s.input.txOk = true ∧
      s.cfg.startLatencyTicks = 0) ∧
    (t.seq = .idle ∧ 24 ≤ t.cfg.symbolCapacity ∧ t.qCount < t.cfg.queueDepth ∧ t.input.txOk = true ∧
      0 < t.cfg.startLatencyTicks) := by decide
theorem witness_RejectedSendKeepsColourAndFrame :
    let s := idleWith { sendInput 1#8 2#8 3#8 with txOk := false }
    s.seq = .idle ∧ 24 ≤ s.cfg.symbolCapacity ∧ s.qCount < s.cfg.queueDepth ∧ s.input.txOk = false := by decide
theorem witness_SendBeforeInitFaults :
    let s := uninitWith (sendInput 1#8 2#8 3#8)
    s.seq = .uninit ∧ s.input.rst = false ∧ s.input.cmdValid = true ∧
      decodeCommand s.input.cmdWord = .instr (.send 1#8 2#8 3#8) := by decide
theorem witness_CommandsHaveNoEffectWhileBusy : cmdReady (txWith TickInput.quiet) = false := by decide
theorem witness_TransmitStartsTheGenerator :
    let s := idleWith (sendInput 1#8 2#8 3#8)
    let t := { s with cfg := otherCfg 24 1 1 none }
    let u := idleWith { sendInput 1#8 2#8 3#8 with txOk := false }
    (s.qCount < s.cfg.queueDepth ∧ s.input.txOk = true ∧ s.cfg.startLatencyTicks = 0) ∧
    (t.qCount < t.cfg.queueDepth ∧ t.input.txOk = true ∧ 0 < t.cfg.startLatencyTicks) ∧
    (u.qCount < u.cfg.queueDepth ∧ u.input.txOk = false) := by decide
theorem witness_TransmitRefusesAFullQueue :
    (txWith TickInput.quiet).cfg.queueDepth ≤ (txWith TickInput.quiet).qCount ∧
    StateInv (idleOf Config.Params.spec []) ∧ (idleOf Config.Params.spec []).seq = .idle :=
  ⟨by decide, inv_idle _ _ rfl, rfl⟩
/-- A record with a duration of 0. -/
theorem witness_OtherRecordsAndLoopCountsAreRefused :
    let e : Symbol := ⟨true, 0#16, false, 6#16⟩
    let s := { txWith TickInput.quiet with sym := [(0, e)] }
    (s.input.waitErr = false ∧ timedOut s = false ∧ s.genState = .gRun ∧ 24 ≤ s.cfg.symbolCapacity ∧
      s.symIdx.toNat < 24 ∧ s.symbolAt s.symIdx.toNat = e ∧ e ≠ ⟨true, 7#16, false, 6#16⟩ ∧ e ≠ ⟨true, 4#16, false, 8#16⟩) ∧
    2 ≠ 1 := by decide
theorem witness_OtherRecordsAndLoopCountsAreRefused_invariant :
    StateInv (txWith TickInput.quiet) ∧ (txWith TickInput.quiet).seq = .tx ∧ 23 < 24 ∧
      ∃ e, (txWith TickInput.quiet).sym.read 23 = some e :=
  ⟨inv_tx _, rfl, by decide, _, rfl⟩
theorem witness_WaitCompleteAdvancesTheGenerator_start :
    let s := { txWith TickInput.quiet with genState := .gStart, genStartCnt := 2 }
    let t := { txWith TickInput.quiet with genState := .gStart, genStartCnt := 1 }
    (s.input.waitErr = false ∧ timedOut s = false ∧ s.genState = .gStart ∧ 1 < s.genStartCnt) ∧
    (t.input.waitErr = false ∧ timedOut t = false ∧ t.genState = .gStart ∧ t.genStartCnt ≤ 1) := by decide
theorem witness_WaitCompleteAdvancesTheGenerator_run :
    let s := { txWith TickInput.quiet with elapsed := 2#16 }
    let t := { txWith TickInput.quiet with elapsed := 3#16 }
    let u := { txWith TickInput.quiet with elapsed := 7#16, half := true, symIdx := 22#5 }
    (s.input.waitErr = false ∧ timedOut s = false ∧ s.genState = .gRun ∧ 24 ≤ s.cfg.symbolCapacity ∧
      s.symIdx.toNat < 24 ∧ s.symbolAt s.symIdx.toNat = Symbol.zero ∧ Symbol.zero.legal = true ∧
      s.elapsed.toNat + 1 < Symbol.zero.halfTicks s.half) ∧
    (t.genState = .gRun ∧ t.symIdx.toNat < 24 ∧ t.symbolAt t.symIdx.toNat = Symbol.zero ∧
      Symbol.zero.halfTicks t.half ≤ t.elapsed.toNat + 1 ∧ t.half = false) ∧
    (u.genState = .gRun ∧ u.symIdx.toNat < 23 ∧ u.symbolAt u.symIdx.toNat = Symbol.zero ∧
      Symbol.zero.halfTicks u.half ≤ u.elapsed.toNat + 1 ∧ u.half = true) := by decide
theorem witness_LastTickCompletesTheFrame :
    let s := lastTxWith TickInput.quiet
    s.seq = .tx ∧ s.input.rst = false ∧ s.input.waitErr = false ∧ timedOut s = false ∧ s.genState = .gRun ∧
      24 ≤ s.cfg.symbolCapacity ∧ s.symIdx = 23#5 ∧ s.half = true ∧ s.symbolAt 23 = Symbol.zero ∧ Symbol.zero.legal = true ∧
      Symbol.zero.duration1.toNat ≤ s.elapsed.toNat + 1 := by decide
theorem witness_WaitErrorThenTimeout :
    let s := txWith { TickInput.quiet with waitErr := true }
    let t := { txWith TickInput.quiet with cfg := otherCfg 24 1 0 (some 100), waitCnt := 100 }
    s.input.waitErr = true ∧
    (t.input.waitErr = false ∧ t.cfg.waitTimeoutTicks = some 100 ∧ 100 ≤ t.waitCnt) ∧
    State.reset.cfg.waitTimeoutTicks = none := by decide
theorem witness_HoldLowCountsDown :
    1 < ({ holdWith TickInput.quiet with holdCnt := 2 } : State).holdCnt ∧
    ({ holdWith TickInput.quiet with holdCnt := 1 } : State).holdCnt ≤ 1 := by decide
theorem witness_HoldLastsExactlyItsTicks :
    let s := { holdWith TickInput.quiet with holdCnt := 1 }
    s.seq = .hold ∧ s.holdCnt = 1 ∧ 1 ≤ 1 ∧ NoReset 1 s :=
  ⟨rfl, rfl, by decide, scheduled (m := 0) (P := fun x => x.rst = false) rfl rfl rfl (by decide)⟩

/-! ### Witnesses: the timeline of a SEND -/

theorem witness_TimeoutFiresExactlyBelowTheFrameLength (T : Nat) :
    let s := sending (otherCfg 24 1 0 (some T))
    StateInv s ∧ s.seq = .idle ∧ s.input.cmdValid = true ∧
    decodeCommand s.input.cmdWord = .instr (.send 0#8 255#8 0#8) ∧ s.cfg.waitTimeoutTicks = some T ∧
    NoReset (1 + 0 + frameTicks (colourOf 0#8 255#8 0#8)) s ∧
    NoPeripheralFailure (1 + 0 + frameTicks (colourOf 0#8 255#8 0#8)) s :=
  ⟨inv_idle _ _ rfl, rfl, rfl, (by decide : decodeCommand 0x2000FF00#32 = .instr (.send 0#8 255#8 0#8)), rfl,
    sending_noReset _ (by decide), sending_noFailure _ (by decide)⟩
/-- The three clauses at their boundaries: T = 295, 296 and 312 for a frame of 296 ticks. -/
theorem witness_TimeoutFiresExactlyBelowTheFrameLength_clauses :
    295 < 0 + frameTicks (colourOf 0#8 255#8 0#8) ∧ 0 + frameTicks (colourOf 0#8 255#8 0#8) ≤ 296 ∧ 0 + 312 ≤ 312 := by
  decide
theorem witness_SendTimeline (k : Nat) (h : k ≤ 11001) :
    let s := sending Config.Params.spec
    StateInv s ∧ s.seq = .idle ∧ s.input.cmdValid = true ∧
    decodeCommand s.input.cmdWord = .instr (.send 0#8 255#8 0#8) ∧ NoReset k s ∧ NoPeripheralFailure k s ∧
    WaitWindowAtLeast (s.cfg.startLatencyTicks + frameTicks (colourOf 0#8 255#8 0#8)) s :=
  ⟨inv_idle _ _ rfl, rfl, rfl, (by decide : decodeCommand 0x2000FF00#32 = .instr (.send 0#8 255#8 0#8)),
    sending_noReset _ h, sending_noFailure _ h, fun _ ht => by cases ht⟩
/-- The ticks that SendPutsItsWaveOnTheLine (297), SendTimeline, SendsOfOneColourAreIdentical and
CompletedSendLatchesItsColour (10297) ask of witness_SendTimeline. -/
theorem witness_SendTimeline_ticks :
    1 + 0 + frameTicks (colourOf 0#8 255#8 0#8) ≤ 11001 ∧
    1 + 0 + frameTicks (colourOf 0#8 255#8 0#8) + Config.Params.spec.resetHoldTicks ≤ 11001 := by decide
theorem witness_SendPutsItsWaveOnTheLine :
    NoReset (1 + 0 + frameTicks (colourOf 0#8 255#8 0#8)) (sending Config.Params.spec) :=
  (witness_SendTimeline _ witness_SendTimeline_ticks.1).2.2.2.2.1
/-- The last clause of SendPutsItsWaveOnTheLine for every m up to 10000: after the frame of `sending` (297 ticks with the
acceptance) the host presents nothing, so no SEND is accepted. -/
theorem witness_SendPutsItsWaveOnTheLine_after (m : Nat) (hm : m ≤ 10000) :
    ∀ (j : Nat) (t : State), j + 1 < m → runTicks (297 + j) (sending Config.Params.spec) = .next t →
      t.input.rst = false → accepted t = true →
      ∀ r g b : Channel, decodeCommand t.input.cmdWord ≠ .instr (.send r g b) := by
  intro j t hj ht _ ha
  have hi : t.input = TickInput.quiet := by
    rw [State.input, Laws.runTicks_inputAt ht, show 0 + (297 + j) = (296 + j) + 1 by omega]
    exact scheduled_quiet (m := 11000) rfl (by omega)
  rw [accepted, hi] at ha
  exact absurd ha (by simp [TickInput.quiet])
theorem witness_SendsOfOneColourAreIdentical :
    NoReset (1 + 0 + frameTicks (colourOf 0#8 255#8 0#8) + Config.Params.spec.resetHoldTicks)
      (sending Config.Params.spec) :=
  (witness_SendTimeline _ witness_SendTimeline_ticks.2).2.2.2.2.1
theorem witness_CompletedSendLatchesItsColour :
    Receiver.powerUp.bits = [] ∧ Receiver.powerUp.highrun = 0 ∧ 494 ≤ Config.Params.spec.resetHoldTicks := by decide
theorem witness_ReceiverReadsTheFrame :
    Receiver.powerUp.bits = [] ∧ Receiver.powerUp.highrun = 0 ∧
    493 + (if (0x000001#24).getLsbD 0 then 6 else 8) < 500 ∧ 500 ≤ 494 + (if (0x000001#24).getLsbD 0 then 6 else 8) ∧
    491 + (if (0x000000#24).getLsbD 0 then 6 else 8) < 500 ∧ 500 ≤ 492 + (if (0x000000#24).getLsbD 0 then 6 else 8) := by
  decide

/-! ### Witnesses: ports, faults, reset, the whole machine -/

theorem witness_UnacceptedCommandHasNoEffect :
    cmdReady (holdWith (sendInput 1#8 2#8 3#8)) = false ∧ (idleWith TickInput.quiet).input.cmdValid = false ∧
    (hostTick ⟨[0x20010203#32], holdWith TickInput.quiet⟩).isSome = true := by decide
theorem witness_StepRunsTheDecodedCommand :
    let s := idleWith (sendInput 1#8 2#8 3#8)
    s.input.rst = false ∧ accepted s = true ∧ decode (.command s.input.cmdWord) = .ok (.send 1#8 2#8 3#8) := by decide
theorem witness_StepRunsTheInternalOperations :
    ((txWith TickInput.quiet).input.rst = false ∧ (txWith TickInput.quiet).seq = .tx) ∧
    ((holdWith TickInput.quiet).input.rst = false ∧ (holdWith TickInput.quiet).seq = .hold) ∧
    ((lastInitWith TickInput.quiet).seq = .initBusy ∧ (lastInitWith TickInput.quiet).initCnt ≤ 1) ∧
    (({ lastInitWith TickInput.quiet with initCnt := 2 } : State).seq = .initBusy ∧
      1 < ({ lastInitWith TickInput.quiet with initCnt := 2 } : State).initCnt) ∧
    (accepted (idleWith TickInput.quiet) = false ∧ (idleWith TickInput.quiet).seq = .idle) := by decide
theorem witness_IllegalWordFaults :
    let s := uninitWith (TickInput.present 0x30000000#32)
    let t := idleWith (TickInput.present 0x10000001#32)
    let u := idleWith (TickInput.present 0x21000000#32)
    (s.input.rst = false ∧ accepted s = true ∧ s.input.cmdWord.extractLsb' 28 4 ≠ 0x1#4 ∧
      s.input.cmdWord.extractLsb' 28 4 ≠ 0x2#4) ∧
    (t.input.rst = false ∧ accepted t = true ∧ t.input.cmdWord.extractLsb' 28 4 = 0x1#4 ∧
      t.input.cmdWord.extractLsb' 0 28 ≠ 0#28) ∧
    (u.input.rst = false ∧ accepted u = true ∧ u.input.cmdWord.extractLsb' 28 4 = 0x2#4 ∧
      u.input.cmdWord.extractLsb' 24 4 ≠ 0#4) := by decide
theorem witness_StatusWordFields :
    (uninitWith TickInput.quiet).seq = .uninit ∧ (lastInitWith TickInput.quiet).seq = .initBusy ∧
    (idleWith TickInput.quiet).seq = .idle ∧ (holdWith TickInput.quiet).seq = .hold ∧
    (faultWith TickInput.quiet).seq = .fault ∧
    ((txWith TickInput.quiet).seq = .tx ∧ (txWith TickInput.quiet).genState = .gRun) ∧
    State.reset.genState ≠ .gRun := by decide
theorem witness_LineHighExactlyInFirstHalves :
    ((txWith TickInput.quiet).seq = .tx ∧ (txWith TickInput.quiet).genState = .gRun ∧
      (txWith TickInput.quiet).symbolAt (txWith TickInput.quiet).symIdx.toNat = Symbol.zero) ∧
    ¬ (State.reset.seq = .tx ∧ State.reset.genState = .gRun) ∧ dout (txWith TickInput.quiet) = true := by decide
theorem witness_ReadyExactlyInUninitAndIdle :
    (faultWith TickInput.quiet).seq = .fault ∧ NoReset 1 (faultWith TickInput.quiet) :=
  ⟨rfl, scheduled (m := 0) (P := fun x => x.rst = false) rfl rfl rfl (by decide)⟩
theorem witness_EagerHostKeepsItsCommandUntilAccepted :
    let d : Driven := ⟨[0x10000000#32], idleWith TickInput.quiet⟩
    let e : Driven := ⟨[0x10000000#32], txWith TickInput.quiet⟩
    ((hostTick d).isSome = true ∧ d.block.input.rst = false ∧ cmdReady d.block = true) ∧
    ((hostTick e).isSome = true ∧ e.block.input.rst = false ∧ cmdReady e.block = false) := by decide
theorem witness_FaultEntry :
    let s := uninitWith (sendInput 1#8 2#8 3#8)
    ((Result.next? (step s)).map fun t => t.seq) = some .fault ∧ s.seq ≠ .fault := by decide
theorem witness_OnlyResetLeavesFault :
    ((faultWith TickInput.quiet).seq = .fault ∧ NoReset 1 (faultWith TickInput.quiet)) ∧
    (faultWith { TickInput.quiet with rst := true }).seq = .fault ∧
    (faultWith { TickInput.quiet with rst := true }).input.rst = true :=
  ⟨witness_ReadyExactlyInUninitAndIdle, rfl, rfl⟩
theorem witness_ResetOverridesEverything :
    1 ≤ 1 ∧ ∀ j < 1, ((txWith { TickInput.quiet with rst := true }).inputAt j).rst = true := by decide
theorem witness_EveryStepKeepsTheInvariant :
    StateInv (txWith TickInput.quiet) ∧ ∃ t, step (txWith TickInput.quiet) = .next t := ⟨inv_tx _, _, rfl⟩
theorem witness_ReachableStatesKeepTheSpecInvariants : Reachable State.reset := .reset _ _ _
theorem witness_NoStopFromTheInvariant : StateInv (txWith TickInput.quiet) := inv_tx _
theorem witness_InitDoneStaysUntilReset :
    ((Result.next? (step (txWith TickInput.quiet))).isSome = true ∧ (txWith TickInput.quiet).input.rst = false ∧
      (txWith TickInput.quiet).initDone = true) ∧
    ((Result.next? (step (lastInitWith TickInput.quiet))).map fun t => (t.initDone, t.seq)) = some (true, .idle) ∧
    (lastInitWith TickInput.quiet).initDone = false ∧ (lastInitWith TickInput.quiet).seq = .initBusy := by decide
theorem witness_OnlySendWritesColourAndSymbols :
    (Result.next? (step (idleWith (sendInput 1#8 2#8 3#8)))).isSome = true ∧
    (idleWith (sendInput 1#8 2#8 3#8)).input.rst = false := by decide
theorem witness_ParametersAndHandlesStay :
    (Result.next? (step (txWith TickInput.quiet))).isSome = true ∧ (txWith TickInput.quiet).input.rst = false ∧
    (txWith TickInput.quiet).chanAlloc = true ∧ (txWith TickInput.quiet).copyEnc = true ∧
    (txWith TickInput.quiet).chanEn = true := by decide
theorem witness_SequencerMovesOnlyAlongItsEdges :
    ((Result.next? (step (lastTxWith TickInput.quiet))).map fun t => t.seq) = some .hold ∧
    (lastTxWith TickInput.quiet).input.rst = false ∧
    (Result.next? (step (txWith { TickInput.quiet with rst := true }))).isSome = true ∧
    (txWith { TickInput.quiet with rst := true }).input.rst = true := by decide

end Sys2Proof.Tests
end

section
/-! PROOFS. The outputs of the BLOCK: `cmd_ready`, the line and the STATUS word, one lemma for each flag, line level and
field (10_state.md R37, R41, R42). -/

namespace Sys2Proof.Proofs

open Sys2Proof Sys2Proof.Machine Sys2Proof.Laws

/-! ### The flags -/

theorem cmdReady_iff (s : State) : cmdReady s = true ↔ s.seq = .uninit ∨ s.seq = .idle := by
  unfold cmdReady
  cases s.seq <;> simp

theorem cmdReady_of_fault {s : State} (h : s.seq = .fault) : cmdReady s = false := by
  simp [cmdReady, h]

theorem busyFlag_iff (s : State) : busyFlag s = true ↔ s.seq = .initBusy ∨ s.seq = .tx ∨ s.seq = .hold := by
  unfold busyFlag
  cases s.seq <;> simp

theorem faultFlag_iff (s : State) : faultFlag s = true ↔ s.seq = .fault := by
  unfold faultFlag
  cases s.seq <;> simp

theorem accepted_iff (s : State) : accepted s = true ↔ s.input.cmdValid = true ∧ cmdReady s = true := by
  simp [accepted]

/-- The position is shown while the generator runs, and only then. -/
theorem symIdxField_eq (s : State) : symIdxField s = if s.genState = .gRun then s.symIdx else 0#5 := by
  unfold symIdxField
  cases s.genState <;> simp

theorem halfFlag_eq (s : State) : halfFlag s = if s.genState = .gRun then s.half else false := by
  unfold halfFlag
  cases s.genState <;> simp

/-! ### The line -/

theorem dout_run {s : State} (hs : s.seq = .tx) (hg : s.genState = .gRun) : dout s = symbolLevel s := by
  simp [dout, hs, hg]

theorem dout_low {s : State} (h : ¬ (s.seq = .tx ∧ s.genState = .gRun)) : dout s = false := by
  unfold dout
  split
  · next hs hg => exact absurd ⟨hs, hg⟩ h
  · rfl

/-- Both legal records are high in the first half and low in the second (30_encoding.md R86). -/
theorem halfLevel_symbolOf (b half : Bool) : (symbolOf b).halfLevel half = !half := by
  cases b <;> cases half <;> rfl

/-- In a frame the line is high exactly in the first half of the symbol. -/
theorem symbolLevel_of_inv {s : State} (h : StateInv s) (hs : s.seq = .tx) (hg : s.genState = .gRun) :
    symbolLevel s = !s.half := by
  have hidx : s.symIdx.toNat < FRAME_SYMBOLS := Nat.lt_succ_of_le (h.position_run hg).1
  rw [symbolLevel, symbolAt_holdsFrame (h.frame_sent (.inl hs)) hidx, frameSymbol, halfLevel_symbolOf]

/-! ### The STATUS word -/

theorem status_initDone (s : State) : (status s).getLsbD 0 = s.initDone := by
  simp only [status, BitVec.getLsbD_append]
  simp

theorem status_busy (s : State) : (status s).getLsbD 1 = busyFlag s := by
  simp only [status, BitVec.getLsbD_append]
  simp

theorem status_fault (s : State) : (status s).getLsbD 2 = faultFlag s := by
  simp only [status, BitVec.getLsbD_append]
  simp

theorem status_ready (s : State) : (status s).getLsbD 3 = cmdReady s := by
  simp only [status, BitVec.getLsbD_append]
  simp

theorem status_faultCode (s : State) : (status s).extractLsb' 4 4 = s.faultCode := by
  simp (disch := decide) only [status, BitVec.extractLsb'_append_eq_of_le, BitVec.extractLsb'_append_eq_of_add_le]
  exact BitVec.extractLsb'_eq_self

theorem status_faultSub (s : State) : (status s).extractLsb' 8 4 = s.faultSub := by
  simp (disch := decide) only [status, BitVec.extractLsb'_append_eq_of_le, BitVec.extractLsb'_append_eq_of_add_le]
  exact BitVec.extractLsb'_eq_self

theorem status_seq (s : State) : (status s).extractLsb' 12 4 = s.seq.code := by
  simp (disch := decide) only [status, BitVec.extractLsb'_append_eq_of_le, BitVec.extractLsb'_append_eq_of_add_le]
  exact BitVec.extractLsb'_eq_self

theorem status_symIdx (s : State) : (status s).extractLsb' 16 5 = symIdxField s := by
  simp (disch := decide) only [status, BitVec.extractLsb'_append_eq_of_le, BitVec.extractLsb'_append_eq_of_add_le]
  exact BitVec.extractLsb'_eq_self

theorem status_half (s : State) : (status s).getLsbD 21 = halfFlag s := by
  simp only [status, BitVec.getLsbD_append]
  simp

theorem status_dout (s : State) : (status s).getLsbD 22 = dout s := by
  simp only [status, BitVec.getLsbD_append]
  simp

theorem status_high (s : State) : (status s).extractLsb' 23 9 = 0#9 := by
  simp (disch := decide) only [status, BitVec.extractLsb'_append_eq_of_le]
  exact BitVec.extractLsb'_eq_self

/-- Only READY is set in UNINIT with nothing done and nothing recorded (10_state.md R42). -/
theorem status_resetOf (cfg : Config.Params) (inputs : List TickInput) (tick : Nat) :
    status (State.resetOf cfg inputs tick) = 0x00000008#32 := by
  simp [status, State.resetOf, dout, halfFlag, symIdxField, Seq.code, cmdReady, faultFlag, busyFlag]

/-! ### The obligations -/

/-- Settles O44: one lemma for each field of the word. -/
theorem statusWordFields : Obligations.StatusWordFields := by
  unfold Obligations.StatusWordFields
  refine ⟨fun s => ⟨status_initDone s, ?_, ?_, status_ready s, status_faultCode s, status_faultSub s, ?_, ?_, ?_, ?_,
    ?_, ?_, fun hg => ⟨?_, ?_⟩, fun hg => ⟨?_, ?_⟩, status_dout s, status_high s⟩, status_resetOf⟩
  case refine_1 => rw [status_busy, busyFlag_iff]
  case refine_2 => rw [status_fault, faultFlag_iff]
  case refine_9 => rw [status_symIdx, symIdxField_eq, if_pos hg]
  case refine_10 => rw [status_half, halfFlag_eq, if_pos hg]
  case refine_11 => rw [status_symIdx, symIdxField_eq, if_neg hg]
  case refine_12 => rw [status_half, halfFlag_eq, if_neg hg]
  all_goals
    intro hs
    rw [status_seq, hs, Seq.code]

/-- Settles O45: a record of a frame is high in its first half and low in its second. -/
theorem lineHighExactlyInFirstHalves : Obligations.LineHighExactlyInFirstHalves := by
  unfold Obligations.LineHighExactlyInFirstHalves
  refine ⟨fun s hs hg => dout_run hs hg, fun s h => dout_low h, fun s h => ?_⟩
  by_cases hrun : s.seq = .tx ∧ s.genState = .gRun
  · obtain ⟨hs, hg⟩ := hrun
    simp [dout_run hs hg, symbolLevel_of_inv h hs hg, hs, hg]
  · simp only [dout_low hrun, Bool.false_eq_true, false_iff]
    exact fun ⟨hs, hg, _⟩ => hrun ⟨hs, hg⟩

end Sys2Proof.Proofs
end

section
/-! PROOFS. What a tick reads of the command port, what FAULT keeps, and what sets init_done (10_state.md R22, R27,
R41). -/

namespace Sys2Proof.Proofs

open Sys2Proof Sys2Proof.Machine Sys2Proof.Laws

/-! ### Reset or the sequencer (41_transmitter.md R121) -/

theorem step_of_rst {s : State} (h : s.input.rst = true) : step s = .next (endTick (resetBlock s)) := by
  simp [step, tickStep, h]

theorem step_of_noRst {s : State} (h : s.input.rst = false) :
    step s = Result.mapNext endTick (sequencerTick s) := by
  simp [step, tickStep, h]

/-! ### FAULT (60_exceptions.md R182) -/

theorem step_fault {s : State} (hs : s.seq = .fault) (hr : s.input.rst = false) : step s = .next (endTick s) := by
  simp [step_of_noRst hr, sequencerTick, hs]

/-- Without reset, FAULT lets the schedule go by and keeps everything else. -/
theorem runTicks_fault (n : Nat) {s : State} (hs : s.seq = .fault) (hr : NoReset n s) :
    runTicks n s = .next { s with inputs := s.inputs.drop n, tick := s.tick + n } := by
  induction n generalizing s with
  | zero => rfl
  | succ n ih =>
    have hnext : NoReset n (endTick s) := fun j hj => by
      rw [inputAt_endTick]
      exact hr (j + 1) (Nat.succ_lt_succ hj)
    have hdrop : s.inputs.tail.drop n = s.inputs.drop (n + 1) := List.drop_tail
    have htick : s.tick + 1 + n = s.tick + (n + 1) := by omega
    simp only [runTicks, step_fault hs (hr 0 n.succ_pos)]
    rw [ih (s := endTick s) hs hnext, endTick_inputs, endTick_tick, hdrop, htick, endTick]

/-! ### INIT_COMPLETE (41_transmitter.md R124) -/

/-- INIT's completion as one choice: the first operation that fails is the fault, and the handles before it stay. -/
theorem initComplete_ite {s : State} (hs : s.seq ≠ .fault) :
    initComplete s =
      if paramsLegal s.cfg = false then .next (raise .configRejected s)
      else if s.input.configureOk = false then .next (raise .resourceUnavailable s)
      else if s.input.copyEncOk = false then .next (raise .encoderUnavailable { s with chanAlloc := true })
      else if s.input.enableOk = false then
        .next (raise .enableFailed { s with chanAlloc := true, copyEnc := true })
      else .next (initDoneState { s with chanAlloc := true, copyEnc := true, chanEn := true }) := by
  have hin : ∀ a b c, ({ s with chanAlloc := a, copyEnc := b, chanEn := c } : State).input = s.input :=
    fun _ _ _ => rfl
  rw [initComplete_eq]
  split_ifs with hp hx hy hz
  · simp [execConfigure, Result.andThen, hp]
  · simp [execConfigure, Result.andThen, hp, hx]
  · simp [execConfigure, execCreateCopyEncoder, Result.andThen, hs, hin, hp, hx, hy]
  · simp [execConfigure, execCreateCopyEncoder, execEnable, Result.andThen, hs, hin, hp, hx, hy, hz]
  · simp [execConfigure, execCreateCopyEncoder, execEnable, Result.andThen, hs, hin, hp, hx, hy, hz]

/-! ### The command port (10_state.md R22) -/

@[simp] theorem withInput_seq (x : TickInput) (s : State) : (withInput x s).seq = s.seq := rfl

@[simp] theorem withInput_cmdReady (x : TickInput) (s : State) : cmdReady (withInput x s) = cmdReady s := rfl

theorem readyTick_unaccepted {s : State} (h : accepted s = false) : readyTick s = .next s := by
  simp [readyTick, h]

/-- The input of a tick with something else on the command port, every draw being the same. -/
def withPort (v : Bool) (w : CmdWord) (x : TickInput) : TickInput := { x with cmdValid := v, cmdWord := w }

/-! With the end of the tick moved into the branches of an operation, the two sides test the same fields and draws,
and end in states that differ in nothing: the input that a tick reads is gone at its end. -/

section
variable (s : State) (x : TickInput) (v : Bool) (w : CmdWord)

theorem initBusyTick_withPort (hs : s.seq = .initBusy) :
    Result.mapNext endTick (initBusyTick (withInput (withPort v w x) s)) =
      Result.mapNext endTick (initBusyTick (withInput x s)) := by
  have hseq : ∀ y, (withInput y s).seq ≠ .fault := fun y => by simp [hs]
  simp only [initBusyTick, initComplete_ite (hseq _), apply_ite (Result.mapNext endTick)]
  rfl

theorem execHoldLow_withPort :
    Result.mapNext endTick (execHoldLow (withInput (withPort v w x) s)) =
      Result.mapNext endTick (execHoldLow (withInput x s)) := by
  simp only [execHoldLow, apply_ite (Result.mapNext endTick)]
  rfl

theorem genAdvance_withPort :
    Result.mapNext endTick (genAdvance (withInput (withPort v w x) s)) =
      Result.mapNext endTick (genAdvance (withInput x s)) := by
  cases hg : s.genState with
  | gIdle =>
    simp only [genAdvance, withInput, hg]
    rfl
  | gStart =>
    simp only [genAdvance, withInput, hg, startTick, mapNext_next, apply_ite endTick]
    rfl
  | gRun =>
    simp only [genAdvance, withInput, hg, runTick, mapNext_next, apply_ite (Result.mapNext endTick), apply_ite endTick]
    rfl

theorem execWaitComplete_withPort :
    Result.mapNext endTick (execWaitComplete (withInput (withPort v w x) s)) =
      Result.mapNext endTick (execWaitComplete (withInput x s)) := by
  have hgen : ∀ y, genAdvance { withInput y s with waitCnt := (withInput y s).waitCnt + 1 } =
      genAdvance (withInput y { s with waitCnt := s.waitCnt + 1 }) := fun _ => rfl
  simp only [execWaitComplete, apply_ite (Result.mapNext endTick), hgen, genAdvance_withPort]
  rfl

variable {s x v w}

/-- A tick that accepts nothing does not read the command port. -/
theorem sequencerTick_withPort (hx : accepted (withInput x s) = false)
    (hy : accepted (withInput (withPort v w x) s) = false) :
    Result.mapNext endTick (sequencerTick (withInput (withPort v w x) s)) =
      Result.mapNext endTick (sequencerTick (withInput x s)) := by
  cases hs : s.seq <;> simp only [sequencerTick, withInput_seq, hs]
  case uninit | idle =>
    rw [readyTick_unaccepted hx, readyTick_unaccepted hy]
    rfl
  case initBusy => exact initBusyTick_withPort s x v w hs
  case tx => exact execWaitComplete_withPort s x v w
  case hold => exact execHoldLow_withPort s x v w
  case fault => rfl

theorem step_withPort (hx : accepted (withInput x s) = false)
    (hy : accepted (withInput (withPort v w x) s) = false) :
    step (withInput (withPort v w x) s) = step (withInput x s) := by
  cases hr : x.rst with
  | true =>
    rw [step_of_rst (s := withInput (withPort v w x) s) hr, step_of_rst (s := withInput x s) hr]
    rfl
  | false =>
    rw [step_of_noRst (s := withInput (withPort v w x) s) hr, step_of_noRst (s := withInput x s) hr]
    exact sequencerTick_withPort hx hy

end

/-- The eager host goes on to its next command when this one is accepted; with none left it has none to go on to. -/
theorem hostTick_commands {d d' : Driven} (h : hostTick d = some d') :
    d'.commands = if cmdReady d.block && !d.block.input.rst then d.commands.tail else d.commands := by
  obtain ⟨commands, s⟩ := d
  simp only [hostTick] at h
  split at h
  · cases commands <;> simp [accepted, hostInput] at h <;> simp [← h]
  · simp at h
  · simp at h

/-! ### INIT_DONE (10_state.md R27) -/

theorem submit_initDone (s : State) : (submit s).initDone = s.initDone := by
  rcases submit_cases s with ⟨_, h⟩ | ⟨_, h⟩ <;> simp [h]

theorem genAdvance_initDone {s t : State} (h : genAdvance s = .next t) : t.initDone = s.initDone := by
  rcases genAdvance_cases h with ⟨_, rfl⟩ | ⟨_, rfl⟩ | ⟨_, _, _, _, rfl⟩
  · rfl
  · rcases startTick_cases s with ⟨_, h⟩ | ⟨_, h⟩ <;> simp [h]
  · rcases runTick_cases (s.symbolAt s.symIdx.toNat) s with ⟨_, h⟩ | ⟨_, _, h⟩ | ⟨_, _, _, h⟩ | ⟨_, _, _, h⟩ <;> simp [h]

/-- A tick without reset sets init_done as it goes from INIT_BUSY to IDLE, and otherwise keeps it. -/
theorem tickCase_initDone {s t : State} (h : TickCase s t) :
    s.seq = .initBusy ∧ t.seq = .idle ∧ t.initDone = true ∨
      ¬ (s.seq = .initBusy ∧ t.seq = .idle) ∧ t.initDone = s.initDone := by
  cases h
  case initCompleted hs _ _ _ _ _ => exact .inl ⟨hs, rfl, rfl⟩
  case generator hs _ _ hg => exact .inr ⟨by simp [hs], (genAdvance_initDone hg).trans rfl⟩
  case sendAccepted hs _ _ _ _ _ => exact .inr ⟨by simp [hs], submit_initDone _⟩
  case initAccepted hs _ _ | holdDone hs _ => exact .inr ⟨by simp [hs], rfl⟩
  case noCommand | halted | initCount | holdCount => exact .inr ⟨fun ⟨hb, hi⟩ => by simp [hb] at hi, rfl⟩
  all_goals exact .inr ⟨by simp, rfl⟩

/-! ### The obligations -/

/-- Settles O46: FAULT keeps `seq`, and `cmd_ready` is a function of it. -/
theorem readyExactlyInUninitAndIdle : Obligations.ReadyExactlyInUninitAndIdle := by
  unfold Obligations.ReadyExactlyInUninitAndIdle
  exact ⟨cmdReady_iff, fun n s hs hr => ⟨_, runTicks_fault n hs hr, cmdReady_of_fault hs⟩⟩

/-- Settles O55: by the cases of a tick. -/
theorem initDoneStaysUntilReset : Obligations.InitDoneStaysUntilReset := by
  unfold Obligations.InitDoneStaysUntilReset
  intro s t h hr
  rcases step_cases h with ⟨hr', _⟩ | ⟨_, u, hu, rfl⟩
  · simp [hr] at hr'
  · rcases tickCase_initDone hu with ⟨hs, ht, hd⟩ | ⟨hne, hd⟩
    · exact ⟨fun _ _ => hd, fun _ => hd, fun _ _ => ⟨hs, ht⟩⟩
    · refine ⟨fun hs ht => absurd ⟨hs, ht⟩ hne, fun h => hd.trans h, fun h0 h1 => ?_⟩
      simp [hd, h0] at h1

/-- Settles O40: a tick that accepts nothing does not read the port, and the host goes on only when the BLOCK is
ready. -/
theorem unacceptedCommandHasNoEffect : Obligations.UnacceptedCommandHasNoEffect := by
  unfold Obligations.UnacceptedCommandHasNoEffect
  refine ⟨accepted_iff, fun s v w hr => ?_, fun s w hv => ?_, fun w ws s d hr hd => ?_⟩
  · exact step_withPort (by simp [accepted, hr]) (by simp [accepted, hr])
  · exact step_withPort (v := s.input.cmdValid) (by simp [accepted, hv]) (by simp [accepted, withPort, hv])
  · simpa [hr] using hostTick_commands hd

end Sys2Proof.Proofs
end

section
/-! PROOFS. The invariant holds after reset, every tick keeps it, and so it holds in every reachable state (10_state.md
R47). -/

namespace Sys2Proof.Proofs

open Sys2Proof Sys2Proof.Machine Sys2Proof.Laws

theorem stateInv_resetOf (cfg : Config.Params) (inputs : List TickInput) (tick : Nat) :
    StateInv (State.resetOf cfg inputs tick) := by
  constructor <;> simp [State.resetOf, NoFrameYet]

theorem stateInv_resetBlock (s : State) : StateInv (resetBlock s) := by
  constructor <;> simp [NoFrameYet]

/-- The invariant does not speak of the schedule. -/
theorem stateInv_endTick {s : State} (h : StateInv s) : StateInv (endTick s) := { h with }

/-! ### Faults -/

/-- The part of the invariant that says nothing of `seq`: what a fault, which writes none of its fields, needs of the
state it is taken in. -/
structure StandingInv (s : State) : Prop where
  handles_all : s.initDone = true → s.chanEn = true
  handles_enable : s.chanEn = true → s.copyEnc = true
  handles_encoder : s.copyEnc = true → s.chanAlloc = true
  configured : s.chanAlloc = true → paramsLegal s.cfg = true
  frame : NoFrameYet s ∨ HoldsFrame s

theorem standingInv_of_inv {s : State} (h : StateInv s) : StandingInv s := { h with }

theorem code_ne_zero (x : Cause) : x.code ≠ 0#4 := by
  cases x <;> decide

theorem stateInv_raise {s : State} (h : StandingInv s) (x : Cause) : StateInv (raise x s) := by
  constructor
  case handles_all => exact h.handles_all
  case handles_enable => exact h.handles_enable
  case handles_encoder => exact h.handles_encoder
  case configured => exact h.configured
  case frame => exact h.frame
  all_goals simp [code_ne_zero]

/-! ### INIT and the hold -/

section
variable {s : State} (h : StateInv s)
include h

theorem stateInv_initAccept (hs : s.seq = .uninit) : StateInv (initAccept s) := by
  cases h
  constructor <;> simp_all [s.input.initLatency_pos, NoFrameYet, HoldsFrame]

theorem stateInv_initCount (hs : s.seq = .initBusy) (hc : 1 < s.initCnt) :
    StateInv { s with initCnt := s.initCnt - 1 } :=
  { h with
    init_cnt_idle := fun hne => absurd hs hne
    init_cnt_busy := fun _ => Nat.le_pred_of_lt hc }

/-- No handle is held before INIT completes, so a fault among its operations finds them taken in their order. -/
theorem standingInv_handles (hs : s.seq = .initBusy) (hp : paramsLegal s.cfg = true) (b : Bool) :
    StandingInv { s with chanAlloc := true, copyEnc := b } := by
  obtain ⟨_, _, hen⟩ := h.no_handles (.inr hs)
  have hd := h.not_initialized (.inr hs)
  exact ⟨by simp [hd], by simp [hen], fun _ => rfl, fun _ => hp, h.frame⟩

theorem stateInv_initDone (hs : s.seq = .initBusy) (hp : paramsLegal s.cfg = true) :
    StateInv (initDoneState { s with chanAlloc := true, copyEnc := true, chanEn := true }) := by
  cases h
  constructor <;> simp_all [NoFrameYet, HoldsFrame]

theorem stateInv_holdCount (hs : s.seq = .hold) (hc : 1 < s.holdCnt) :
    StateInv { s with holdCnt := s.holdCnt - 1 } :=
  { h with
    hold_cnt_idle := fun hne => absurd hs hne
    hold_cnt_busy := fun _ => ⟨Nat.le_pred_of_lt hc, (Nat.sub_le _ _).trans (h.hold_cnt_busy hs).2⟩ }

theorem stateInv_holdDone (hs : s.seq = .hold) : StateInv { s with holdCnt := 0, seq := .idle } := by
  cases h
  constructor <;> simp_all [NoFrameYet, HoldsFrame]

end

/-! ### SEND -/

theorem halfTicks_frameSymbol_pos (c : Colour) (p : Nat) (half : Bool) : 0 < (frameSymbol c p).halfTicks half := by
  rw [frameSymbol, halfTicks_symbolOf]
  split_ifs <;> decide

theorem halfTicks_frameSymbol_le (c : Colour) (p : Nat) (half : Bool) : (frameSymbol c p).halfTicks half ≤ 8 := by
  rw [frameSymbol, halfTicks_symbolOf]
  split_ifs <;> decide

/-- A SEND replaces the frame of any earlier one (20_memory.md R54). -/
theorem holdsFrame_encodedState {s : State} (h : NoFrameYet s ∨ HoldsFrame s) (r g b : Channel) :
    HoldsFrame (encodedState r g b s) := by
  rcases h with ⟨hsym, _⟩ | hsym
  · simp [HoldsFrame, hsym]
  · have hsym : s.sym = writeFrame s.color [] := hsym
    simp [HoldsFrame, hsym, writeFrame_writeFrame]

theorem standingInv_encodedState {s : State} (h : StateInv s) (r g b : Channel) : StandingInv (encodedState r g b s) :=
  { standingInv_of_inv h with frame := .inr (holdsFrame_encodedState h.frame r g b) }

theorem stateInv_sentState {s : State} (h : StateInv s) (hs : s.seq = .idle) (r g b : Channel) :
    StateInv (sentState r g b s) := by
  have hf := holdsFrame_encodedState h.frame r g b
  cases h
  rcases submit_cases (encodedState r g b s) with ⟨_, hu⟩ | ⟨hl, hu⟩ <;> simp only [sentState, hu]
  · constructor <;> simp_all [HoldsFrame, halfTicks_frameSymbol_pos]
  · have hl : 1 ≤ s.cfg.startLatencyTicks := hl
    constructor <;> simp_all [HoldsFrame]

/-! ### The generator -/

/-- While the generator runs, its position is all that a tick within the frame changes. -/
theorem stateInv_position {s : State} (h : StateInv s) (hg : s.genState = .gRun) {i : BitVec 5} {half : Bool}
    {e : BitVec 16} (hi : i.toNat ≤ 23) (he : e.toNat < (frameSymbol s.color i.toNat).halfTicks half) :
    StateInv { s with symIdx := i, half := half, elapsed := e } :=
  { h with
    position_idle := fun hne => absurd hg hne
    position_run := fun _ => ⟨hi, he⟩ }

section
variable {s : State} (h : StateInv s) (hs : s.seq = .tx)
include h hs

theorem stateInv_waitCount : StateInv { s with waitCnt := s.waitCnt + 1 } :=
  { h with wait_cnt_idle := fun hne => absurd hs hne }

theorem stateInv_startTick (hg : s.genState = .gStart) : StateInv (startTick s) := by
  rcases startTick_cases s with ⟨hc, hu⟩ | ⟨_, hu⟩ <;> rw [hu]
  · exact { h with
      start_cnt_idle := fun hne => absurd hg hne
      start_cnt_busy := fun _ => ⟨Nat.le_pred_of_lt hc, (Nat.sub_le _ _).trans (h.start_cnt_busy hg).2⟩ }
  · cases h
    constructor <;> simp_all [NoFrameYet, HoldsFrame, halfTicks_frameSymbol_pos]

theorem stateInv_completeFrame (hg : s.genState = .gRun) : StateInv (completeFrame s) := by
  have hfloor : 1 ≤ s.cfg.resetHoldTicks := (by decide : 1 ≤ 500).trans s.cfg.resetHold_floor
  cases h
  constructor <;> simp_all [NoFrameYet, HoldsFrame]

theorem stateInv_runTick (hg : s.genState = .gRun) : StateInv (runTick (s.symbolAt s.symIdx.toNat) s) := by
  obtain ⟨hidx, _⟩ := h.position_run hg
  rw [symbolAt_holdsFrame (h.frame_sent (.inl hs)) (Nat.lt_succ_of_le hidx)]
  rcases runTick_cases (frameSymbol s.color s.symIdx.toNat) s with
    ⟨hlt, hu⟩ | ⟨_, _, hu⟩ | ⟨_, _, hlt, hu⟩ | ⟨_, _, _, hu⟩ <;> rw [hu]
  · have hle := halfTicks_frameSymbol_le s.color s.symIdx.toNat s.half
    have he : (s.elapsed + 1#16).toNat = s.elapsed.toNat + 1 := by bv_omega
    exact stateInv_position h hg hidx (he ▸ hlt)
  · exact stateInv_position h hg hidx (halfTicks_frameSymbol_pos _ _ _)
  · exact stateInv_position h hg (by bv_omega) (halfTicks_frameSymbol_pos _ _ _)
  · exact stateInv_completeFrame h hs hg

theorem stateInv_genAdvance {t : State} (hu : genAdvance s = .next t) : StateInv t := by
  rcases genAdvance_cases hu with ⟨_, rfl⟩ | ⟨hg, rfl⟩ | ⟨hg, _, _, _, rfl⟩
  · exact h
  · exact stateInv_startTick h hs hg
  · exact stateInv_runTick h hs hg

end

/-! ### The tick, the step, the run -/

theorem stateInv_tickCase {s t : State} (h : StateInv s) (ht : TickCase s t) : StateInv t := by
  have hst := standingInv_of_inv h
  cases ht
  case noCommand | halted => exact h
  case illegal | initAgain | sendEarly | configRejected | resourceUnavailable | waitFailed | timeout =>
    exact stateInv_raise hst _
  case sendRejected r g b _ _ _ _ _ _ =>
    exact stateInv_raise (standingInv_encodedState h r g b) _
  case sendAccepted r g b hs _ _ _ _ _ => exact stateInv_sentState h hs r g b
  case initAccepted hs _ _ => exact stateInv_initAccept h hs
  case initCount hs hc => exact stateInv_initCount h hs hc
  case encoderUnavailable hs _ hp _ _ => exact stateInv_raise (standingInv_handles h hs hp s.copyEnc) _
  case enableFailed hs _ hp _ _ _ => exact stateInv_raise (standingInv_handles h hs hp true) _
  case initCompleted hs _ hp _ _ _ => exact stateInv_initDone h hs hp
  case generator hs _ _ hu => exact stateInv_genAdvance (stateInv_waitCount h hs) hs hu
  case holdCount hs hc => exact stateInv_holdCount h hs hc
  case holdDone hs _ => exact stateInv_holdDone h hs

theorem stateInv_step {s t : State} (h : StateInv s) (ht : step s = .next t) : StateInv t := by
  rcases step_cases ht with ⟨_, rfl⟩ | ⟨_, u, hu, rfl⟩
  · exact stateInv_endTick (stateInv_resetBlock s)
  · exact stateInv_endTick (stateInv_tickCase h hu)

theorem stateInv_reachable {s : State} (h : Reachable s) : StateInv s := by
  induction h with
  | reset cfg inputs tick => exact stateInv_resetOf cfg inputs tick
  | step _ ht ih => exact stateInv_step ih ht

/-- The invariants (a) to (f) are part of the one that every step keeps; a half lasts at most 8 ticks. -/
theorem specInvariant_of_inv {s : State} (h : StateInv s) : SpecInvariant s where
  __ := h
  queue_one_iff_tx :=
    ⟨⟨fun hq => by_contra fun hne => by simp [h.queue_empty hne] at hq, h.queue_tx⟩, h.queue_empty⟩
  run_position hg := by
    obtain ⟨hidx, hlt⟩ := h.position_run hg
    have hle := halfTicks_frameSymbol_le s.color s.symIdx.toNat s.half
    exact ⟨by omega, hidx⟩
  idle_initialized hs := h.initialized (.inl hs)
  uninit_not_initialized hs := h.not_initialized (.inl hs)

/-! ### The obligations -/

/-- Settles O53: the stronger invariant holds in every reachable state. -/
theorem reachableStatesKeepTheSpecInvariants : Obligations.ReachableStatesKeepTheSpecInvariants := by
  unfold Obligations.ReachableStatesKeepTheSpecInvariants
  exact fun s hs => specInvariant_of_inv (stateInv_reachable hs)

end Sys2Proof.Proofs
end

section
/-! PROOFS. The command word: its fields make it up, and each of the decoder's four answers is a condition on them
(30_encoding.md R76 to R83, R91). -/

namespace Sys2Proof.Proofs

open Sys2Proof Sys2Proof.Machine Sys2Proof.Laws

/-! ### The fields of a word (30_encoding.md R76) -/

theorem opField_append_below28Field (w : CmdWord) : opField w ++ below28Field w = w :=
  (BitVec.extractLsb'_append_extractLsb'_eq_extractLsb' rfl).trans BitVec.extractLsb'_eq_self

/-- The two high fields are the byte [31:24]. -/
theorem opField_append_rsvField (w : CmdWord) : opField w ++ rsvField w = w.extractLsb' 24 8 :=
  BitVec.extractLsb'_append_extractLsb'_eq_extractLsb' rfl

theorem append_fields (w : CmdWord) :
    opField w ++ rsvField w ++ redField w ++ greenField w ++ blueField w = w := by
  rw [opField_append_rsvField]
  simp only [redField, greenField, blueField, BitVec.extractLsb'_append_extractLsb'_eq_extractLsb']
  exact BitVec.extractLsb'_eq_self

/-! ### The words of a command (R78, R79) -/

/-- Two concatenations are equal exactly when their parts are. -/
theorem append_eq_append_iff {m n : Nat} {a a' : BitVec m} {b b' : BitVec n} :
    a ++ b = a' ++ b' ↔ a = a' ∧ b = b' := by
  constructor
  · intro h
    have hhigh := congrArg (BitVec.extractLsb' n m) h
    have hlow := congrArg (BitVec.setWidth n) h
    rw [BitVec.extractLsb'_append_eq_left, BitVec.extractLsb'_append_eq_left] at hhigh
    rw [BitVec.setWidth_append_eq_right, BitVec.setWidth_append_eq_right] at hlow
    exact ⟨hhigh, hlow⟩
  · rintro ⟨rfl, rfl⟩
    rfl

theorem init_fields_iff (w : CmdWord) : opField w = 1#4 ∧ below28Field w = 0#28 ↔ w = 0x10000000#32 := by
  rw [← append_eq_append_iff, opField_append_below28Field]
  rfl

/-- The mask keeps the two high fields and clears the rest. -/
theorem and_sendMask (w : CmdWord) : w &&& 0xFF000000#32 = w.extractLsb' 24 8 ++ 0#24 := by
  have hw : w.extractLsb' 24 8 ++ w.extractLsb' 0 24 = w :=
    (BitVec.extractLsb'_append_extractLsb'_eq_extractLsb' rfl).trans BitVec.extractLsb'_eq_self
  calc w &&& 0xFF000000#32
      = (w.extractLsb' 24 8 ++ w.extractLsb' 0 24) &&& (BitVec.allOnes 8 ++ 0#24) := by rw [hw]; rfl
    _ = w.extractLsb' 24 8 ++ 0#24 := by rw [BitVec.and_append, BitVec.and_allOnes, BitVec.and_zero]

theorem send_fields_iff (w : CmdWord) :
    opField w = 2#4 ∧ rsvField w = 0#4 ↔ w &&& 0xFF000000#32 = 0x20000000#32 := by
  rw [← append_eq_append_iff, opField_append_rsvField, and_sendMask,
    show 0x20000000#32 = (2#4 ++ 0#4) ++ 0#24 from rfl, BitVec.append_left_inj]

/-! ### The decoder's answers (R83) -/

theorem decodeCommand_init_iff (w : CmdWord) :
    decodeCommand w = .instr .init ↔ opField w = 1#4 ∧ below28Field w = 0#28 := by
  unfold decodeCommand
  split_ifs <;> simp_all

theorem decodeCommand_send_iff (w : CmdWord) (r g b : Channel) :
    decodeCommand w = .instr (.send r g b) ↔
      (opField w = 2#4 ∧ rsvField w = 0#4) ∧ redField w = r ∧ greenField w = g ∧ blueField w = b := by
  unfold decodeCommand
  split_ifs <;> simp_all

theorem decodeCommand_reservedBits_iff (w : CmdWord) :
    decodeCommand w = .illegal .reservedBits ↔
      opField w = 1#4 ∧ below28Field w ≠ 0#28 ∨ opField w = 2#4 ∧ rsvField w ≠ 0#4 := by
  unfold decodeCommand
  split_ifs <;> simp_all

theorem decodeCommand_reservedOpcode_iff (w : CmdWord) :
    decodeCommand w = .illegal .reservedOpcode ↔ opField w ≠ 1#4 ∧ opField w ≠ 2#4 := by
  unfold decodeCommand
  split_ifs <;> simp_all

/-- A SEND word is `0x20RRGGBB`. -/
theorem word_of_decodeCommand_send {w : CmdWord} {r g b : Channel} (h : decodeCommand w = .instr (.send r g b)) :
    w = 0x20#8 ++ r ++ g ++ b := by
  obtain ⟨⟨hop, hrsv⟩, hr, hg, hb⟩ := (decodeCommand_send_iff w r g b).mp h
  rw [← append_fields w, hop, hrsv, hr, hg, hb]
  rfl

/-! ### An accepted illegal word (R81, R82) -/

theorem step_illegal {s : State} {sub : IllegalSub} (hr : s.input.rst = false) (ha : accepted s = true)
    (hd : decodeCommand s.input.cmdWord = .illegal sub) :
    step s = .next (endTick (raise (Cause.ofIllegal sub) s)) := by
  have hready : sequencerTick s = readyTick s := by
    rcases (cmdReady_iff s).mp ((accepted_iff s).mp ha).2 with hs | hs <;> simp [sequencerTick, hs]
  rw [step_of_noRst hr, hready, readyTick, if_pos ha, acceptCommand, hd, mapNext_next]

/-! ### The obligations -/

/-- Settles O2: the decoder's INIT answer is one value of the two fields that make up the word. -/
theorem initIsTheOneWord : Obligations.InitIsTheOneWord := by
  unfold Obligations.InitIsTheOneWord
  exact ⟨fun w => (decodeCommand_init_iff w).trans (init_fields_iff w),
    fun w hop hlow => (decodeCommand_reservedBits_iff w).mpr (.inl ⟨hop, hlow⟩)⟩

/-- Settles O3: the mask keeps exactly the two fields that the decoder tests for SEND. -/
theorem sendIsEveryMaskedWord : Obligations.SendIsEveryMaskedWord := by
  unfold Obligations.SendIsEveryMaskedWord
  refine ⟨fun w => ?_, fun w r g b h => ?_⟩
  · simp [← send_fields_iff, decodeCommand_send_iff]
  · obtain ⟨_, hr, hg, hb⟩ := (decodeCommand_send_iff w r g b).mp h
    exact ⟨hr.symm, hg.symm, hb.symm, word_of_decodeCommand_send h⟩

/-- Settles O4: by what the word decodes to. -/
theorem everyWordIsInitSendOrIllegal : Obligations.EveryWordIsInitSendOrIllegal := by
  unfold Obligations.EveryWordIsInitSendOrIllegal
  intro w
  cases hd : decodeCommand w with
  | instr i =>
    rcases decodeCommand_cases hd with rfl | ⟨r, g, b, rfl⟩
    · exact .inl ⟨(init_fields_iff w).mp ((decodeCommand_init_iff w).mp hd), rfl⟩
    · exact .inr (.inl ⟨r, g, b, word_of_decodeCommand_send hd, rfl⟩)
  | illegal sub =>
    cases sub with
    | reservedBits => exact .inr (.inr (.inl ⟨(decodeCommand_reservedBits_iff w).mp hd, rfl⟩))
    | reservedOpcode =>
      obtain ⟨hinit, hsend⟩ := (decodeCommand_reservedOpcode_iff w).mp hd
      exact .inr (.inr (.inr ⟨hinit, hsend, rfl⟩))

/-- Settles O8: the four lines and the four words are closed terms, and the model computes each of them. -/
theorem pseudoInstructionsExpand : Obligations.PseudoInstructionsExpand := by
  unfold Obligations.PseudoInstructionsExpand
  decide

/-- Settles O43: the word is decoded before any state is looked at. -/
theorem illegalWordFaults : Obligations.IllegalWordFaults := by
  unfold Obligations.IllegalWordFaults
  intro s hr ha
  refine ⟨fun hinit hsend => ⟨?_, rfl, rfl⟩, fun hbits => ⟨?_, rfl, rfl⟩⟩
  · exact step_illegal hr ha ((decodeCommand_reservedOpcode_iff _).mpr ⟨hinit, hsend⟩)
  · exact step_illegal hr ha ((decodeCommand_reservedBits_iff _).mpr hbits)

end Sys2Proof.Proofs
end

section
/-! PROOFS. The records of the frame: what ENCODE writes and where, and that nothing but ONE and ZERO is ever run
(30_encoding.md R84 to R87, 40_encoder.md R101). -/

namespace Sys2Proof.Proofs

open Sys2Proof Sys2Proof.Machine Sys2Proof.Laws

/-! ### ENCODE (40_encoder.md R108) -/

theorem exec_encode {s : State} (h : 24 ≤ s.cfg.symbolCapacity) :
    exec .encode s = .next { s with sym := writeFrame s.color s.sym } :=
  if_pos (decide_eq_true h)

/-- What SYM holds once the frame of `c` has been written. -/
theorem symbolAt_writeFrame (c : Colour) (s : State) (p : Nat) :
    ({ s with sym := writeFrame c s.sym } : State).symbolAt p =
      if p < FRAME_SYMBOLS then frameSymbol c p else s.symbolAt p := by
  rw [symbolAt_eq, record_writeFrame, symbolAt_eq]

/-- The record of bit `k` of wire channel `ch` is at its position (30_encoding.md R87). -/
theorem symbolAt_writeFrame_position (c : Colour) (s : State) {ch k : Nat} (hch : ch < 3) (hk : k < 8) :
    ({ s with sym := writeFrame c s.sym } : State).symbolAt (position ch k) =
      symbolOf ((wireChannel c ch).getLsbD k) := by
  have hp : position ch k < FRAME_SYMBOLS := by
    simp only [position, FRAME_SYMBOLS]
    omega
  rw [symbolAt_writeFrame, if_pos hp, frameSymbol, wireWord_bit c hch hk]

/-! ### What the machine refuses (30_encoding.md R85) -/

theorem exec_waitComplete_noFailure {s : State} (he : s.input.waitErr = false) (ht : timedOut s = false) :
    exec .waitComplete s = genAdvance { s with waitCnt := s.waitCnt + 1 } := by
  simp [exec, execWaitComplete, he, ht]

/-- The generator runs no record but ONE and ZERO. -/
theorem genAdvance_illegal {s : State} (hg : s.genState = .gRun) (hc : 24 ≤ s.cfg.symbolCapacity)
    (hi : s.symIdx.toNat < 24) (hl : (s.symbolAt s.symIdx.toNat).legal = false) :
    genAdvance s = .refused .illegalSymbol := by
  simp [genAdvance, hg, frameFits, hc, hi, hl]

theorem exec_transmit_loopCount {n : Nat} (h : n ≠ LOOP_COUNT) (s : State) :
    exec (.transmit n) s = .refused .loopCountNotOne :=
  if_pos h

/-- Whatever has been written to the first 24 entries since reset is a record of the frame of the latched colour. -/
theorem read_of_inv {s : State} (h : StateInv s) {p : Nat} {e : Symbol} (hp : p < FRAME_SYMBOLS)
    (hread : s.sym.read p = some e) : e = frameSymbol s.color p := by
  rcases h.frame with ⟨hsym, _⟩ | hsym
  · simp [hsym, SymMem.read] at hread
  · rw [hsym, read_writeFrame, if_pos hp] at hread
    exact (Option.some.inj hread).symm

/-! ### The obligations -/

/-- Settles O9: every position is read from what the frame's writes leave in SYM. -/
theorem encodeWritesTheFrame : Obligations.EncodeWritesTheFrame := by
  unfold Obligations.EncodeWritesTheFrame
  intro s hcap
  refine ⟨_, _, exec_encode hcap, rfl, fun k hk => ⟨?_, ?_, ?_⟩, fun p hp => ?_, fun p hp => ?_⟩
  · exact symbolAt_writeFrame_position s.color s (ch := 0) (by decide) hk
  · exact symbolAt_writeFrame_position s.color s (ch := 1) (by decide) hk
  · exact symbolAt_writeFrame_position s.color s (ch := 2) (by decide) hk
  · exact (symbolAt_writeFrame s.color s p).trans (if_pos hp)
  · exact (symbolAt_writeFrame s.color s p).trans (if_neg (Nat.not_lt_of_le hp))

/-- Settles O28: an entry of the frame is ONE or ZERO, and the generator and TRANSMIT test what they are given. -/
theorem otherRecordsAndLoopCountsAreRefused : Obligations.OtherRecordsAndLoopCountsAreRefused := by
  unfold Obligations.OtherRecordsAndLoopCountsAreRefused
  refine ⟨fun s p e h hp hread => ?_, fun s p h hs hp => ?_, fun s e he ht hg hc hi hsym hone hzero => ?_,
    fun s n hn => exec_transmit_loopCount hn s⟩
  · rw [read_of_inv h hp hread]
    exact legal_iff.mp (frameSymbol_legal s.color p)
  · rw [symbolAt_holdsFrame (h.frame_sent hs) hp]
    exact legal_iff.mp (frameSymbol_legal s.color p)
  · have hl : e.legal = false := Bool.eq_false_iff.mpr fun hl => (legal_iff.mp hl).elim hone hzero
    rw [exec_waitComplete_noFailure he ht]
    exact genAdvance_illegal (s := { s with waitCnt := s.waitCnt + 1 }) hg hc hi (hsym ▸ hl)

end Sys2Proof.Proofs
end

section
/-! PROOFS. The frame of a colour (40_encoder.md R105 to R111): where each bit of the wire word stands in it, and that
the wire word and the frame both determine the colour. -/

namespace Sys2Proof.Proofs

open Sys2Proof Sys2Proof.Machine Sys2Proof.Laws

/-! ### The reorder from {r, g, b} to {g, r, b} (R110) -/

theorem append_channels (c : BitVec 24) : c.extractLsb' 16 8 ++ c.extractLsb' 8 8 ++ c.extractLsb' 0 8 = c := by
  simp only [BitVec.extractLsb'_append_extractLsb'_eq_extractLsb']
  exact BitVec.extractLsb'_eq_self

/-- A 24-bit word made of three channels gives each of them back. -/
theorem channels_append (x y z : Channel) :
    (x ++ y ++ z).extractLsb' 16 8 = x ∧ (x ++ y ++ z).extractLsb' 8 8 = y ∧ (x ++ y ++ z).extractLsb' 0 8 = z := by
  have h := append_channels (x ++ y ++ z)
  rw [append_eq_append_iff, append_eq_append_iff] at h
  obtain ⟨⟨hx, hy⟩, hz⟩ := h
  exact ⟨hx, hy, hz⟩

theorem colourOfWire_wireWord (c : Colour) : colourOfWire (wireWord c) = c := by
  obtain ⟨hg, hr, hb⟩ := channels_append (greenOf c) (redOf c) (blueOf c)
  rw [colourOfWire, wireWord, hg, hr, hb]
  exact append_channels c

theorem wireWord_colourOfWire (w : BitVec 24) : wireWord (colourOfWire w) = w := by
  obtain ⟨hr, hg, hb⟩ := channels_append (w.extractLsb' 8 8) (w.extractLsb' 16 8) (w.extractLsb' 0 8)
  rw [wireWord, greenOf, redOf, blueOf, colourOfWire, colourOf, hr, hg, hb]
  exact append_channels w

theorem wireWord_bijective : Function.Bijective wireWord :=
  Function.bijective_iff_has_inverse.mpr ⟨colourOfWire, colourOfWire_wireWord, wireWord_colourOfWire⟩

/-! ### The records of the frame (R106, R111) -/

theorem symbolOf_eq_one_iff {b : Bool} : symbolOf b = Symbol.one ↔ b = true := by
  cases b <;> decide

theorem symbolOf_injective : Function.Injective symbolOf := by
  decide

theorem frameList_length (c : Colour) : (frameList c).length = FRAME_SYMBOLS := by
  simp [frameList]

theorem frameList_getElem? (c : Colour) {p : Nat} (hp : p < FRAME_SYMBOLS) :
    (frameList c)[p]? = some (frameSymbol c p) := by
  simp [frameList, hp]

/-- The eight records of wire channel `ch` carry its bits from the most significant one on (R105). -/
theorem frameList_channel (c : Colour) {ch j : Nat} (hch : ch < 3) (hj : j < 8) :
    (frameList c)[ch * 8 + j]? = some (symbolOf ((wireChannel c ch).getLsbD (7 - j))) := by
  have hp : ch * 8 + j < FRAME_SYMBOLS := by
    simp only [FRAME_SYMBOLS]
    omega
  have hpos : position ch (7 - j) = ch * 8 + j := by
    simp only [position]
    omega
  rw [frameList_getElem? c hp, frameSymbol, ← hpos, wireWord_bit c hch (by omega)]

theorem wireWord_eq_of_frameList_eq {c d : Colour} (h : frameList c = frameList d) : wireWord c = wireWord d := by
  refine BitVec.eq_of_getLsbD_eq fun i hi => ?_
  have hp : 23 - i < FRAME_SYMBOLS := by
    simp only [FRAME_SYMBOLS]
    omega
  have hsym : frameSymbol c (23 - i) = frameSymbol d (23 - i) :=
    Option.some.inj (by rw [← frameList_getElem? c hp, h, frameList_getElem? d hp])
  have hbit := symbolOf_injective hsym
  rwa [Nat.sub_sub_self (Nat.le_of_lt_succ hi)] at hbit

theorem frameList_injective : Function.Injective frameList :=
  fun _ _ h => wireWord_bijective.injective (wireWord_eq_of_frameList_eq h)

/-! ### What a completed ENCODE leaves (R108, R109) -/

theorem capacity_of_exec_encode {s t : State} (h : exec .encode s = .next t) : 24 ≤ s.cfg.symbolCapacity := by
  by_contra hcap
  have hfault : exec .encode s = .fault .symIndexOutOfRange := if_neg (by simpa [frameFits, FRAME_SYMBOLS] using hcap)
  simp [hfault] at h

theorem symbolAt_of_exec_encode {s t : State} (h : exec .encode s = .next t) {p : Nat} (hp : p < FRAME_SYMBOLS) :
    t.symbolAt p = frameSymbol s.color p := by
  rw [exec_encode (capacity_of_exec_encode h)] at h
  rw [← Host.Outcome.next.inj h, symbolAt_writeFrame, if_pos hp]

/-! ### The obligations -/

/-- Settles O11: the record that ENCODE leaves at a position is a function of the latched colour. -/
theorem encodeDependsOnColourAlone : Obligations.EncodeDependsOnColourAlone := by
  unfold Obligations.EncodeDependsOnColourAlone
  intro s s' t t' hcolour ht ht' p hp
  rw [symbolAt_of_exec_encode ht hp, symbolAt_of_exec_encode ht' hp, hcolour]

/-- Settles O12: the frame determines the wire word bit by bit, and the receiver's reading of a wire word undoes the
reorder. -/
theorem distinctColoursGiveDistinctFrames : Obligations.DistinctColoursGiveDistinctFrames := by
  unfold Obligations.DistinctColoursGiveDistinctFrames
  refine ⟨fun _ _ h => frameList_injective h, fun c p hp => ?_, wireWord_bijective⟩
  rw [frameList_getElem? c hp, Option.some_inj]
  exact symbolOf_eq_one_iff

/-- Settles O13: the three channels are the three blocks of eight records, and a completed ENCODE leaves the record of
each position. -/
theorem frameIsGreenRedBlueMsbFirst : Obligations.FrameIsGreenRedBlueMsbFirst := by
  unfold Obligations.FrameIsGreenRedBlueMsbFirst
  intro c
  refine ⟨frameList_length c, fun j hj => ⟨?_, ?_, ?_⟩, rfl, rfl,
    fun s hcolour hcap => ⟨_, exec_encode hcap, fun p hp => ?_⟩⟩
  · have hgreen := frameList_channel c (ch := 0) (by decide) hj
    rwa [Nat.zero_mul, Nat.zero_add] at hgreen
  · exact frameList_channel c (ch := 1) (by decide) hj
  · exact frameList_channel c (ch := 2) (by decide) hj
  · rw [symbolAt_of_exec_encode (exec_encode hcap) hp, hcolour, frameList_getElem? c hp]

end Sys2Proof.Proofs
end

section
/-! PROOFS. The edges of the sequencer, the tick that accepts a command and the last tick of INIT (41_transmitter.md
R124, R126, R128, R134). -/

namespace Sys2Proof.Proofs

open Sys2Proof Sys2Proof.Machine Sys2Proof.Laws

/-! ### The tick that accepts a command (R121, R122) -/

/-- A command that is valid in UNINIT or IDLE is accepted. -/
theorem step_command {s : State} {i : Instr} (hs : s.seq = .uninit ∨ s.seq = .idle) (hr : s.input.rst = false)
    (hv : s.input.cmdValid = true) (hd : decodeCommand s.input.cmdWord = .instr i) :
    step s = Result.mapNext endTick (exec i s) := by
  have ha : accepted s = true := (accepted_iff s).mpr ⟨hv, (cmdReady_iff s).mpr hs⟩
  have hready : sequencerTick s = readyTick s := by
    rcases hs with hs | hs <;> simp [sequencerTick, hs]
  rw [step_of_noRst hr, hready, readyTick, if_pos ha, acceptCommand, hd]

theorem exec_init_uninit {s : State} (hs : s.seq = .uninit) : exec .init s = .next (initAccept s) := by
  simp [exec, execInit, hs]

theorem exec_init_idle {s : State} (hs : s.seq = .idle) : exec .init s = .next (raise .alreadyInitialized s) := by
  simp [exec, execInit, hs]

theorem exec_send_uninit {s : State} (hs : s.seq = .uninit) (r g b : Channel) :
    exec (.send r g b) s = .next (raise .notInitialized s) := by
  simp [exec, execSend, hs]

/-! ### INIT_BUSY (R124) -/

theorem step_initBusy {s : State} (hs : s.seq = .initBusy) (hr : s.input.rst = false) :
    step s = Result.mapNext endTick (initBusyTick s) := by
  simp [step_of_noRst hr, sequencerTick, hs]

theorem initBusyTick_last {s : State} (hc : s.initCnt ≤ 1) : initBusyTick s = initComplete s :=
  if_neg (Nat.not_lt_of_le hc)

/-! ### The edges (R134) -/

/-- A tick of the generator stays in the state of the sequencer, or the frame completes and the hold begins. -/
theorem genAdvance_seq {s t : State} (h : genAdvance s = .next t) : t.seq = s.seq ∨ t.seq = .hold := by
  rcases genAdvance_cases h with ⟨_, rfl⟩ | ⟨_, rfl⟩ | ⟨_, _, _, _, rfl⟩
  · exact .inl rfl
  · rcases startTick_cases s with ⟨_, hu⟩ | ⟨_, hu⟩ <;> simp [hu]
  · rcases runTick_cases (s.symbolAt s.symIdx.toNat) s with ⟨_, hu⟩ | ⟨_, _, hu⟩ | ⟨_, _, _, hu⟩ | ⟨_, _, _, hu⟩ <;>
      simp [hu]

theorem tickCase_seq {s t : State} (h : TickCase s t) :
    t.seq = s.seq ∨ t.seq = .fault ∨
      (s.seq, t.seq) ∈
        [(Seq.uninit, Seq.initBusy), (.initBusy, .idle), (.idle, .tx), (.tx, .hold), (.hold, .idle)] := by
  cases h
  case noCommand | initCount | holdCount | halted => exact .inl rfl
  case initAccepted hs _ _ | sendAccepted hs _ _ _ _ _ | initCompleted hs _ _ _ _ _ | holdDone hs _ =>
    exact .inr (.inr (by simp [hs]))
  case generator hs _ _ hg =>
    rcases genAdvance_seq hg with ht | ht
    · exact .inl ht
    · exact .inr (.inr (by simp [hs, ht]))
  all_goals exact .inr (.inl rfl)

/-! ### The obligations -/

/-- Settles O58: by the cases of a tick. -/
theorem sequencerMovesOnlyAlongItsEdges : Obligations.SequencerMovesOnlyAlongItsEdges := by
  unfold Obligations.SequencerMovesOnlyAlongItsEdges
  intro s t h
  rcases step_cases h with ⟨hr, rfl⟩ | ⟨hr, u, hu, rfl⟩
  · exact ⟨fun _ => rfl, fun hr' => by simp [hr] at hr'⟩
  · exact ⟨fun hr' => by simp [hr] at hr', fun _ => by rw [endTick_seq]; exact tickCase_seq hu⟩

/-- Settles O19: the first operation that fails decides. -/
theorem lastInitTickRunsTheThreeOperations : Obligations.LastInitTickRunsTheThreeOperations := by
  unfold Obligations.LastInitTickRunsTheThreeOperations
  intro s hs hc hr
  have hstep : step s = Result.mapNext endTick (initComplete s) := by
    rw [step_initBusy hs hr, initBusyTick_last hc.le]
  rw [hstep, initComplete_ite (by simp [hs])]
  refine ⟨fun hp => ?_, fun hp hx => ?_, fun hp hx hy => ?_, fun hp hx hy hz => ?_, fun hp hx hy hz => ?_⟩
  · simp [hp]
  · simp [hp, hx]
  · simp [hp, hx, hy]
  · simp [hp, hx, hy, hz]
  · simp [hp, hx, hy, hz, initDoneState]

/-- Settles O21: INIT has its meaning in IDLE, and the other four states are not ready. -/
theorem secondInitFaults : Obligations.SecondInitFaults := by
  unfold Obligations.SecondInitFaults
  intro s hr hv hd
  refine ⟨fun hs => ⟨?_, rfl, rfl⟩, fun hs => ?_⟩
  · rw [step_command (.inr hs) hr hv hd, exec_init_idle hs, mapNext_next]
  · have hready : cmdReady s = false := by
      rcases hs with hs | hs | hs | hs <;> simp [cmdReady, hs]
    simp [accepted, hready]

/-- Settles O24: the fault is all that the tick does. -/
theorem sendBeforeInitFaults : Obligations.SendBeforeInitFaults := by
  unfold Obligations.SendBeforeInitFaults
  intro s r g b hs hr hv hd
  refine ⟨?_, rfl, rfl, rfl, fun _ => rfl, rfl, dout_low ?_, dout_low ?_⟩
  · rw [step_command (.inl hs) hr hv hd, exec_send_uninit hs, mapNext_next]
  · simp [hs]
  · simp

end Sys2Proof.Proofs
end

section
/-! PROOFS. Courses: ticks that follow one another whatever the schedule presents, as long as every tick's input is a
good one, and what an observer sees of the state in each of them. -/

namespace Sys2Proof.Proofs

open Sys2Proof Sys2Proof.Machine Sys2Proof.Laws

/-! ### What is seen over several ticks -/

/-- What the timelines of INIT and SEND say of a state: the two control states and the line. -/
structure View where
  seq : Seq
  gen : GenState
  line : Level

def viewOf (s : State) : View := ⟨s.seq, s.genState, dout s⟩

/-- From `s` the machine runs one tick for each view, shows that view in it, and ends in `t`. -/
structure Observed (vs : List View) (s t : State) : Prop where
  ends : runTicks vs.length s = .next t
  line : lineTrace vs.length s = vs.map View.line
  views : ∀ k < vs.length, ∃ u, runTicks k s = .next u ∧ vs[k]? = some (viewOf u)

theorem observed_nil (s : State) : Observed [] s s := ⟨rfl, rfl, fun _ hk => absurd hk (Nat.not_lt_zero _)⟩

theorem runTicks_succ {s u : State} (h : step s = .next u) (k : Nat) : runTicks (k + 1) s = runTicks k u := by
  simp [runTicks, h]

theorem lineTrace_succ {s u : State} (h : step s = .next u) (k : Nat) :
    lineTrace (k + 1) s = dout s :: lineTrace k u := by
  simp [lineTrace, h]

theorem Observed.cons {vs : List View} {s u t : State} (h : step s = .next u) (ht : Observed vs u t) :
    Observed (viewOf s :: vs) s t where
  ends := (runTicks_succ h vs.length).trans ht.ends
  line := (lineTrace_succ h vs.length).trans (congrArg (dout s :: ·) ht.line)
  views
    | 0, _ => ⟨s, rfl, rfl⟩
    | k + 1, hk => by
      rw [runTicks_succ h]
      exact ht.views k (Nat.lt_of_succ_lt_succ hk)

theorem Observed.of_length {vs : List View} {s t : State} (h : Observed vs s t) {n : Nat} (hn : vs.length = n) :
    runTicks n s = .next t ∧ lineTrace n s = vs.map View.line :=
  hn ▸ ⟨h.ends, h.line⟩

/-! ### Courses -/

/-- `s` at another point of another schedule. -/
def onSchedule (xs : List TickInput) (n : Nat) (s : State) : State := { s with inputs := xs, tick := n }

@[simp] theorem viewOf_onSchedule (xs : List TickInput) (n : Nat) (s : State) :
    viewOf (onSchedule xs n s) = viewOf s := rfl

/-- A tick with a good input takes `s` to `u`, wherever in a schedule it stands. -/
def TicksTo (good : TickInput → Prop) (s u : State) : Prop :=
  ∀ xs n, good (onSchedule xs n s).input → step (onSchedule xs n s) = .next (endTick (onSchedule xs n u))

/-- Ticks with good inputs take `s` to `t` and show these views on the way, the schedule apart. -/
inductive Course (good : TickInput → Prop) : List View → State → State → Prop where
  | done (s : State) : Course good [] s s
  | tick {vs : List View} {s u t : State} (h : TicksTo good s u) (rest : Course good vs u t) :
      Course good (viewOf s :: vs) s t

section
variable {good : TickInput → Prop}

theorem Course.append {vs ws : List View} {s t u : State} (h : Course good vs s t) (h' : Course good ws t u) :
    Course good (vs ++ ws) s u := by
  induction h with
  | done => exact h'
  | tick hstep _ ih => exact .tick hstep (ih h')

/-- A family of states, each one tick after the one before, that all look the same. -/
theorem course_replicate {f : Nat → State} {v : View} (n : Nat)
    (hstep : ∀ j < n, TicksTo good (f j) (f (j + 1))) (hview : ∀ j < n, viewOf (f j) = v) :
    Course good (List.replicate n v) (f 0) (f n) := by
  induction n with
  | zero => exact .done _
  | succ n ih =>
    have hlast : Course good [v] (f n) (f (n + 1)) :=
      hview n n.lt_succ_self ▸ .tick (hstep n n.lt_succ_self) (.done _)
    rw [List.replicate_succ']
    have hfirst := ih (fun j hj => hstep j (hj.trans n.lt_succ_self)) fun j hj => hview j (hj.trans n.lt_succ_self)
    exact hfirst.append hlast

/-- The same with a last tick that leads out of the family. -/
theorem course_countdown {f : Nat → State} {u : State} {v : View} (n : Nat)
    (hstep : ∀ j < n, TicksTo good (f j) (f (j + 1))) (hlast : TicksTo good (f n) u) (hview : ∀ j, viewOf (f j) = v) :
    Course good (List.replicate (n + 1) v) (f 0) u := by
  have hend : Course good [v] (f n) u := hview n ▸ .tick hlast (.done _)
  rw [List.replicate_succ']
  exact (course_replicate n hstep fun j _ => hview j).append hend

/-- A course is what is observed under any schedule whose inputs are good for as long as it lasts. -/
theorem Course.observed {vs : List View} {s t : State} (h : Course good vs s t) {xs : List TickInput} {n : Nat}
    (hgood : ∀ j < vs.length, good ((onSchedule xs n s).inputAt j)) :
    Observed vs (onSchedule xs n s) (onSchedule (xs.drop vs.length) (n + vs.length) t) := by
  induction h generalizing xs n with
  | done s => exact observed_nil _
  | @tick vs s u t hstep _ ih =>
    have hnext : ∀ j < vs.length, good ((endTick (onSchedule xs n u)).inputAt j) := fun j hj => by
      rw [inputAt_endTick]
      exact hgood (j + 1) (Nat.succ_lt_succ hj)
    have hrest := (ih (xs := xs.tail) (n := n + 1) hnext).cons (hstep xs n (hgood 0 (Nat.succ_pos _)))
    rwa [List.drop_tail, Nat.add_right_comm, viewOf_onSchedule] at hrest

/-- A course that begins with the tick after this one. -/
theorem Course.observed_after {vs : List View} {s u t : State} (hfirst : step s = .next (endTick u))
    (h : Course good vs u t) (hgood : ∀ j < vs.length, good (s.inputAt (j + 1))) :
    ∃ xs n, Observed (viewOf s :: vs) s (onSchedule xs n t) := by
  have hrest := h.observed (xs := u.inputs.tail) (n := u.tick + 1) fun j hj => by
    have hj := hgood j hj
    rwa [← step_inputAt hfirst] at hj
  exact ⟨_, _, hrest.cons hfirst⟩

end

/-! ### Ticks in which nothing goes wrong (42_peripheral.md R158) -/

/-- An input of a tick in which nothing goes wrong. -/
def Undisturbed (x : TickInput) : Prop := x.rst = false ∧ x.noFailure = true

theorem undisturbed_inputAt {n : Nat} {s : State} (hr : NoReset n s) (hf : NoPeripheralFailure n s) {j : Nat}
    (hj : j < n) : Undisturbed (s.inputAt j) :=
  ⟨hr j hj, hf j hj⟩

theorem noFailure_iff (x : TickInput) :
    x.noFailure = true ↔
      x.configureOk = true ∧ x.copyEncOk = true ∧ x.enableOk = true ∧ x.txOk = true ∧ x.waitErr = false := by
  simp [TickInput.noFailure, and_assoc]

end Sys2Proof.Proofs
end

section
/-! PROOFS. INIT from its acceptance to IDLE (41_transmitter.md R123 to R125). -/

namespace Sys2Proof.Proofs

open Sys2Proof Sys2Proof.Machine Sys2Proof.Laws

theorem genState_of_inv {s : State} (h : StateInv s) (hs : s.seq ≠ .tx) : s.genState = .gIdle :=
  by_contra fun hg => hs (h.gen_runs_iff_tx.mp hg)

/-! ### INIT_BUSY -/

/-- Every tick of INIT_BUSY looks like this. -/
abbrev busyView : View := ⟨.initBusy, .gIdle, false⟩

theorem viewOf_initBusy {s : State} (hs : s.seq = .initBusy) (hg : s.genState = .gIdle) : viewOf s = busyView := by
  simp [viewOf, hs, hg, dout_low]

theorem ticksTo_initCount {s : State} (hs : s.seq = .initBusy) (hc : 1 < s.initCnt) :
    TicksTo Undisturbed s { s with initCnt := s.initCnt - 1 } := by
  intro xs n hgood
  have hcount : initBusyTick (onSchedule xs n s) = .next (onSchedule xs n { s with initCnt := s.initCnt - 1 }) :=
    if_pos hc
  rw [step_initBusy (s := onSchedule xs n s) hs hgood.1, hcount, mapNext_next]

theorem ticksTo_initDone {s : State} (hs : s.seq = .initBusy) (hc : s.initCnt = 1) (hp : paramsLegal s.cfg = true) :
    TicksTo Undisturbed s (initDoneState { s with chanAlloc := true, copyEnc := true, chanEn := true }) := by
  intro xs n hgood
  obtain ⟨hx, hy, hz, _, _⟩ := (noFailure_iff _).mp hgood.2
  obtain ⟨_, _, _, _, hdone⟩ := lastInitTickRunsTheThreeOperations (onSchedule xs n s) hs hc hgood.1
  exact hdone hp hx hy hz

theorem course_initCount {s : State} (hs : s.seq = .initBusy) (hg : s.genState = .gIdle) {j : Nat}
    (hj : j < s.initCnt) :
    Course Undisturbed (List.replicate j busyView) s { s with initCnt := s.initCnt - j } :=
  course_replicate (f := fun j => { s with initCnt := s.initCnt - j }) j
    (fun i hi => ticksTo_initCount (s := { s with initCnt := s.initCnt - i }) hs (by simp only; omega))
    fun _ _ => viewOf_initBusy hs hg

/-- INIT_BUSY from its first tick to IDLE. -/
theorem course_init {s : State} (hs : s.seq = .initBusy) (hg : s.genState = .gIdle) {n : Nat}
    (hc : s.initCnt = n + 1) (hp : paramsLegal s.cfg = true) :
    Course Undisturbed (List.replicate (n + 1) busyView) s
      (initDoneState { s with chanAlloc := true, copyEnc := true, chanEn := true }) :=
  course_countdown (f := fun j => { s with initCnt := s.initCnt - j }) n
    (fun j hj => ticksTo_initCount (s := { s with initCnt := s.initCnt - j }) hs (by simp only; omega))
    (ticksTo_initDone (s := { s with initCnt := s.initCnt - n }) hs (by simp only; omega) hp)
    fun _ => viewOf_initBusy hs hg

/-! ### The obligation -/

/-- Settles O20: the acceptance, then the count, then the three operations. -/
theorem initTakesItsLatency : Obligations.InitTakesItsLatency := by
  unfold Obligations.InitTakesItsLatency
  intro s hinv hs hv hd hp hr hf
  have hg : s.genState = .gIdle := genState_of_inv hinv (by simp [hs])
  have hfirst : step s = .next (endTick (initAccept s)) := by
    rw [step_command (.inl hs) (hr 0 (Nat.succ_pos _)) hv hd, exec_init_uninit hs, mapNext_next]
  have hgood : ∀ j < s.input.initLatency, Undisturbed (s.inputAt (j + 1)) := fun j hj =>
    undisturbed_inputAt hr hf (Nat.succ_lt_succ hj)
  have hview : viewOf s = ⟨.uninit, .gIdle, false⟩ := by simp [viewOf, hs, hg, dout_low]
  refine ⟨fun k hk hle => ?_, ?_⟩
  · obtain ⟨j, rfl⟩ := Nat.exists_eq_add_of_le' hk
    obtain ⟨xs, m, hobs⟩ := (course_initCount (s := initAccept s) rfl hg hle).observed_after hfirst fun i hi =>
      hgood i (by rw [List.length_replicate] at hi; omega)
    obtain ⟨hends, _⟩ := hobs.of_length (n := j + 1) (by simp)
    exact ⟨_, hends, rfl, (Nat.add_sub_add_right _ _ _).symm⟩
  · obtain ⟨n, hn⟩ := Nat.exists_eq_add_of_le' s.input.initLatency_pos
    obtain ⟨xs, m, hobs⟩ := (course_init (s := initAccept s) rfl hg hn hp).observed_after hfirst fun i hi =>
      hgood i (by rw [List.length_replicate] at hi; omega)
    obtain ⟨hends, hline⟩ := hobs.of_length (n := s.input.initLatency + 1) (by simp [hn])
    rw [List.map_cons, List.map_replicate, hview, ← hn, ← List.replicate_succ] at hline
    refine ⟨⟨_, hends, rfl, rfl, rfl, rfl, rfl, hinv.queue_empty (by simp [hs]), hg, dout_low ?_⟩, hline⟩
    simp [onSchedule]

end Sys2Proof.Proofs
end

section
/-! PROOFS. The waveform of a frame: its records bit by bit, and how long it lasts (40_encoder.md R107). -/

namespace Sys2Proof.Proofs

open Sys2Proof Sys2Proof.Machine Sys2Proof.Laws

theorem wave_eq (c : Colour) :
    wave c = (List.range 24).flatMap fun i => expandRuns (symbolRuns (symbolOf ((wireWord c).getLsbD (23 - i)))) := by
  simp only [wave, waveRuns, frameList, expandRuns, List.flatMap_assoc, List.flatMap_map, frameSymbol]

/-- A record lasts 12 ticks, and one more where its bit is 1. -/
theorem length_records {α : Type} (bit : α → Bool) (l : List α) :
    (l.flatMap fun a => expandRuns (symbolRuns (symbolOf (bit a)))).length = 12 * l.length + l.countP bit := by
  induction l with
  | nil => rfl
  | cons a l ih =>
    have hrecord : (expandRuns (symbolRuns (symbolOf (bit a)))).length = 12 + if bit a then 1 else 0 := by
      cases bit a <;> rfl
    rw [List.flatMap_cons, List.length_append, hrecord, ih, List.length_cons, List.countP_cons]
    omega

/-- The 1 bits of the wire word are those of its three channels. -/
theorem countP_wireWord (c : Colour) :
    ((List.range 24).countP fun i => (wireWord c).getLsbD (23 - i)) =
      popcount (greenOf c) + popcount (redOf c) + popcount (blueOf c) := by
  have hchannel : ∀ ch < 3, ((List.range 8).reverse.map (position ch)).countP
      (fun i => (wireWord c).getLsbD (23 - i)) = popcount (wireChannel c ch) := fun ch hch => by
    rw [List.countP_map, List.countP_reverse, popcount]
    refine List.countP_congr fun k hk => ?_
    rw [Function.comp_apply, wireWord_bit c hch (List.mem_range.mp hk)]
  have hsplit : List.range 24 = (List.range 8).reverse.map (position 0) ++
      ((List.range 8).reverse.map (position 1) ++ (List.range 8).reverse.map (position 2)) := by decide
  rw [hsplit, List.countP_append, List.countP_append, hchannel 0 (by decide), hchannel 1 (by decide),
    hchannel 2 (by decide), ← Nat.add_assoc]
  rfl

theorem length_wave (c : Colour) : (wave c).length = frameTicks c := by
  rw [wave_eq, length_records, List.length_range, countP_wireWord, frameTicks]
  omega

theorem frameTicks_bounds (c : Colour) : 288 ≤ frameTicks c ∧ frameTicks c ≤ 312 := by
  have hpop : ∀ v : Channel, popcount v ≤ 8 := fun v => List.countP_le_length.trans_eq List.length_range
  have hr := hpop (redOf c)
  have hg := hpop (greenOf c)
  have hb := hpop (blueOf c)
  simp only [frameTicks]
  omega

end Sys2Proof.Proofs
end

section
/-! PROOFS. The frame on the line: the generator runs the 24 records of the frame, half by half, and so puts `wave(c)`
out (40_encoder.md R107, 42_peripheral.md R147, R148). -/

namespace Sys2Proof.Proofs

open Sys2Proof Sys2Proof.Machine Sys2Proof.Laws

/-! ### A TX tick without a failure -/

theorem startTick_onSchedule (xs : List TickInput) (n : Nat) (s : State) :
    startTick (onSchedule xs n s) = onSchedule xs n (startTick s) := by
  simp only [startTick, apply_ite (onSchedule xs n)]
  rfl

theorem runTick_onSchedule (e : Symbol) (xs : List TickInput) (n : Nat) (s : State) :
    runTick e (onSchedule xs n s) = onSchedule xs n (runTick e s) := by
  simp only [runTick, apply_ite (onSchedule xs n)]
  rfl

/-- The generator does not read the schedule. -/
theorem genAdvance_onSchedule {s u : State} (h : genAdvance s = .next u) (xs : List TickInput) (n : Nat) :
    genAdvance (onSchedule xs n s) = .next (onSchedule xs n u) := by
  rcases genAdvance_cases h with ⟨hg, rfl⟩ | ⟨hg, rfl⟩ | ⟨hg, hc, hi, hl, rfl⟩
  · simp [genAdvance, onSchedule, hg]
  · rw [← startTick_onSchedule]
    simp [genAdvance, onSchedule, hg]
  · rw [← runTick_onSchedule]
    exact genAdvance_run (s := onSchedule xs n s) hg hc hi hl

theorem ticksTo_tx {s u : State} (hs : s.seq = .tx) (ht : timedOut s = false)
    (hu : genAdvance { s with waitCnt := s.waitCnt + 1 } = .next u) : TicksTo Undisturbed s u := by
  intro xs n hgood
  obtain ⟨_, _, _, _, he⟩ := (noFailure_iff _).mp hgood.2
  have hseq : sequencerTick (onSchedule xs n s) = exec .waitComplete (onSchedule xs n s) := by
    simp [sequencerTick, onSchedule, hs]
  have hgen : genAdvance { onSchedule xs n s with waitCnt := (onSchedule xs n s).waitCnt + 1 } =
      .next (onSchedule xs n u) := genAdvance_onSchedule hu xs n
  rw [step_of_noRst hgood.1, hseq, exec_waitComplete_noFailure he ht, hgen, mapNext_next]

theorem waitWindow_mono {m n : Nat} {s : State} (hw : WaitWindowAtLeast n s) (h : m ≤ n) : WaitWindowAtLeast m s :=
  fun T hT => h.trans (hw T hT)

theorem timedOut_of_window {s : State} {n : Nat} (hw : WaitWindowAtLeast n s) (hn : s.waitCnt < n) :
    timedOut s = false := by
  unfold timedOut
  split
  · rfl
  · next T hT => simpa using hn.trans_le (hw T hT)

/-! ### The start latency -/

/-- A tick of the start latency looks like this. -/
abbrev startView : View := ⟨.tx, .gStart, false⟩

theorem ticksTo_start {s : State} (hs : s.seq = .tx) (hg : s.genState = .gStart) (ht : timedOut s = false) :
    TicksTo Undisturbed s (startTick { s with waitCnt := s.waitCnt + 1 }) :=
  ticksTo_tx hs ht (by simp [genAdvance, hg])

theorem course_start {s : State} {n : Nat} (hs : s.seq = .tx) (hg : s.genState = .gStart) (hc : s.genStartCnt = n + 1)
    (hw : WaitWindowAtLeast (s.waitCnt + (n + 1)) s) :
    Course Undisturbed (List.replicate (n + 1) startView) s
      (beginFrame { s with genStartCnt := 0, waitCnt := s.waitCnt + (n + 1) }) := by
  have htick : ∀ j ≤ n, TicksTo Undisturbed { s with genStartCnt := s.genStartCnt - j, waitCnt := s.waitCnt + j }
      (startTick { s with genStartCnt := s.genStartCnt - j, waitCnt := s.waitCnt + j + 1 }) := fun j hj =>
    ticksTo_start (s := { s with genStartCnt := s.genStartCnt - j, waitCnt := s.waitCnt + j }) hs hg
      (timedOut_of_window hw (by simp only; omega))
  refine course_countdown (f := fun j => { s with genStartCnt := s.genStartCnt - j, waitCnt := s.waitCnt + j }) n
    (fun j hj => ?_) ?_ fun _ => ?_
  · have hj' := htick j hj.le
    rwa [startTick, if_pos (by simp only; omega)] at hj'
  · have hn := htick n le_rfl
    rwa [startTick, if_neg (by simp only; omega)] at hn
  · simp [viewOf, hs, hg, dout_low]

/-! ### The position in the frame -/

/-- A state in which the generator runs the frame of the latched colour. -/
structure RunsFrame (s : State) : Prop where
  seq : s.seq = .tx
  gen : s.genState = .gRun
  frame : HoldsFrame s
  capacity : 24 ≤ s.cfg.symbolCapacity

/-- The generator at a position of the frame, with this many TX ticks gone. -/
def atPosition (s : State) (i : Nat) (half : Bool) (e w : Nat) : State :=
  { s with symIdx := BitVec.ofNat 5 i, half := half, elapsed := BitVec.ofNat 16 e, waitCnt := w }

/-- What follows the last tick of a half: the second half, the next symbol, or the end of the frame. -/
def afterHalf (s : State) (i : Nat) (half : Bool) (w : Nat) : State :=
  if half = false then atPosition s i true 0 w
  else if i < 23 then atPosition s (i + 1) false 0 w
  else completeFrame s

theorem symIdx_atPosition (s : State) {i : Nat} (hi : i < 24) (half : Bool) (k w : Nat) :
    (atPosition s i half k w).symIdx.toNat = i := by
  simp only [atPosition, BitVec.toNat_ofNat]
  omega

theorem runTick_atPosition (e : Symbol) (s : State) {i k w : Nat} {half : Bool} (hi : i < 24) (hk : k < 8) :
    runTick e (atPosition s i half k w) =
      if k + 1 < e.halfTicks half then atPosition s i half (k + 1) w else afterHalf s i half w := by
  have hidx : (BitVec.ofNat 5 i).toNat = i := symIdx_atPosition s hi half k w
  have hel : (BitVec.ofNat 16 k).toNat = k := by
    rw [BitVec.toNat_ofNat]
    omega
  simp only [runTick, afterHalf, atPosition, hidx, hel, BitVec.ofNat_add]
  rfl

/-! ### What is seen of the frame -/

/-- A tick of the frame looks like this. -/
abbrev runView (level : Level) : View := ⟨.tx, .gRun, level⟩

def halfViews (c : Colour) (i : Nat) (half : Bool) : List View :=
  List.replicate ((frameSymbol c i).halfTicks half) (runView !half)

def symbolViews (c : Colour) (i : Nat) : List View := halfViews c i false ++ halfViews c i true

def frameViews (c : Colour) (i n : Nat) : List View := (List.range' i n).flatMap (symbolViews c)

theorem length_symbolViews (c : Colour) (i : Nat) :
    (symbolViews c i).length = (frameSymbol c i).halfTicks false + (frameSymbol c i).halfTicks true := by
  simp [symbolViews, halfViews]

theorem frameViews_zero (c : Colour) (i : Nat) : frameViews c i 0 = [] := rfl

theorem frameViews_succ (c : Colour) (i n : Nat) :
    frameViews c i (n + 1) = symbolViews c i ++ frameViews c (i + 1) n := rfl

theorem map_symbolRuns (c : Colour) (i : Nat) :
    (expandRuns (symbolRuns (frameSymbol c i))).map runView = symbolViews c i := by
  rw [frameSymbol, symbolViews, halfViews, halfViews, frameSymbol]
  cases (wireWord c).getLsbD (23 - i) <;> rfl

theorem map_wave (c : Colour) : (wave c).map runView = frameViews c 0 24 := by
  rw [wave_eq, List.map_flatMap, frameViews, ← List.range_eq_range']
  exact congrArg ((List.range 24).flatMap ·) (funext (map_symbolRuns c))

/-! ### The ticks of the frame (42_peripheral.md R147) -/

section
variable {s : State} (h : RunsFrame s)
include h

theorem symbolAt_atPosition {i : Nat} (hi : i < 24) (half : Bool) (k w : Nat) :
    (atPosition s i half k w).symbolAt i = frameSymbol s.color i :=
  symbolAt_holdsFrame (s := atPosition s i half k w) h.frame hi

theorem genAdvance_atPosition {i : Nat} (hi : i < 24) (half : Bool) (k w : Nat) :
    genAdvance (atPosition s i half k w) = .next (runTick (frameSymbol s.color i) (atPosition s i half k w)) := by
  have hidx := symIdx_atPosition s hi half k w
  have hsym := symbolAt_atPosition h hi half k w
  rw [genAdvance_run (s := atPosition s i half k w) h.gen h.capacity (by omega), hidx, hsym]
  rw [hidx, hsym]
  exact frameSymbol_legal _ _

theorem viewOf_atPosition {i : Nat} (hi : i < 24) (half : Bool) (k w : Nat) :
    viewOf (atPosition s i half k w) = runView !half := by
  have hidx := symIdx_atPosition s hi half k w
  have hsym := symbolAt_atPosition h hi half k w
  have hd : dout (atPosition s i half k w) = !half := by
    rw [dout_run (s := atPosition s i half k w) h.seq h.gen, symbolLevel, hidx, hsym, frameSymbol]
    exact halfLevel_symbolOf _ half
  simp only [viewOf, hd]
  simp [atPosition, h.seq, h.gen]

/-- One tick at a position within the wait window. -/
theorem ticksTo_atPosition {i k w : Nat} {half : Bool} (hi : i < 24) (hk : k < (frameSymbol s.color i).halfTicks half)
    (hw : WaitWindowAtLeast (w + 1) s) :
    TicksTo Undisturbed (atPosition s i half k w)
      (if k + 1 < (frameSymbol s.color i).halfTicks half then atPosition s i half (k + 1) (w + 1)
      else afterHalf s i half (w + 1)) := by
  have hk8 := halfTicks_frameSymbol_le s.color i half
  rw [← runTick_atPosition _ _ hi (by omega)]
  exact ticksTo_tx (s := atPosition s i half k w) h.seq
    (timedOut_of_window (s := atPosition s i half k w) hw w.lt_succ_self) (genAdvance_atPosition h hi half k (w + 1))

theorem course_half {i w : Nat} (hi : i < 24) (half : Bool)
    (hw : WaitWindowAtLeast (w + (frameSymbol s.color i).halfTicks half) s) :
    Course Undisturbed (halfViews s.color i half) (atPosition s i half 0 w)
      (afterHalf s i half (w + (frameSymbol s.color i).halfTicks half)) := by
  obtain ⟨d, hd⟩ := Nat.exists_eq_add_of_le' (halfTicks_frameSymbol_pos s.color i half)
  rw [hd] at hw
  rw [halfViews, hd]
  refine course_countdown (f := fun j => atPosition s i half j (w + j)) d (fun j hj => ?_) ?_
    fun j => viewOf_atPosition h hi half j (w + j)
  · have htick := ticksTo_atPosition h (k := j) (half := half) (w := w + j) hi (by omega)
      (waitWindow_mono hw (by omega))
    rwa [if_pos (by omega)] at htick
  · have htick := ticksTo_atPosition h (k := d) (half := half) (w := w + d) hi (by omega) hw
    rwa [if_neg (by omega)] at htick

theorem course_symbol {i w : Nat} (hi : i < 24) (hw : WaitWindowAtLeast (w + (symbolViews s.color i).length) s) :
    Course Undisturbed (symbolViews s.color i) (atPosition s i false 0 w)
      (afterHalf s i true (w + (symbolViews s.color i).length)) := by
  rw [length_symbolViews, ← Nat.add_assoc] at hw ⊢
  have hhigh := course_half h hi false (waitWindow_mono hw (Nat.le_add_right _ _))
  exact hhigh.append (course_half h hi true hw)

/-- The records from position `i` to the last one. -/
theorem course_symbols {i n w : Nat} (hi : i + n = 23)
    (hw : WaitWindowAtLeast (w + (frameViews s.color i (n + 1)).length) s) :
    Course Undisturbed (frameViews s.color i (n + 1)) (atPosition s i false 0 w) (completeFrame s) := by
  induction n generalizing i w with
  | zero =>
    obtain rfl : i = 23 := hi
    rw [frameViews_succ, frameViews_zero, List.append_nil] at hw ⊢
    exact course_symbol h (by decide) hw
  | succ n ih =>
    rw [frameViews_succ, List.length_append, ← Nat.add_assoc] at hw
    rw [frameViews_succ]
    have hfirst := course_symbol h (i := i) (w := w) (by omega) (waitWindow_mono hw (Nat.le_add_right _ _))
    rw [afterHalf, if_neg (by decide), if_pos (by omega)] at hfirst
    exact hfirst.append (ih (by omega) hw)

/-- The frame puts its waveform on the line and ends in the hold (R148, R151). -/
theorem course_wave (hidx : s.symIdx = 0#5) (hhalf : s.half = false) (hel : s.elapsed = 0#16)
    (hw : WaitWindowAtLeast (s.waitCnt + frameTicks s.color) s) :
    Course Undisturbed ((wave s.color).map runView) s (completeFrame s) := by
  have hpos : atPosition s 0 false 0 s.waitCnt = s := by
    simp only [atPosition, ← hidx, ← hhalf, ← hel]
  rw [← length_wave, ← List.length_map (f := runView), map_wave] at hw
  have hcourse := course_symbols h (i := 0) (n := 23) rfl hw
  rwa [hpos, ← map_wave] at hcourse

end

end Sys2Proof.Proofs
end

section
/-! PROOFS. A SEND from its acceptance through the start latency, the frame and the hold to READY (41_transmitter.md
R127, 42_peripheral.md R145, R151, R155). -/

namespace Sys2Proof.Proofs

open Sys2Proof Sys2Proof.Machine Sys2Proof.Laws

/-! ### IDLE -/

/-- An IDLE state of the invariant is the one that a successful INIT leaves, with its colour and SYM. -/
theorem eq_idleState {s : State} (h : StateInv s) (hs : s.seq = .idle) : s = idleState s := by
  have hd := h.initialized (.inl hs)
  have he := h.handles_all hd
  have hc := h.handles_enable he
  have ha := h.handles_encoder hc
  have hq := h.queue_empty (by simp [hs])
  have hg := genState_of_inv h (by simp [hs])
  have hi := h.init_cnt_idle (by simp [hs])
  have hh := h.hold_cnt_idle (by simp [hs])
  have hw := h.wait_cnt_idle (by simp [hs])
  have hl := h.start_cnt_idle (by simp [hg])
  obtain ⟨hx, hy, hz⟩ := h.position_idle (by simp [hg])
  have hf : s.faultCode = 0#4 := by_contra fun hne => by simpa [hs] using h.fault_recorded.mp hne
  have hb := h.sub_recorded (by simp [hs])
  cases s
  simp_all [idleState, resetBlock, State.resetOf]

theorem paramsLegal_of_idle {s : State} (h : StateInv s) (hs : s.seq = .idle) : paramsLegal s.cfg = true :=
  h.configured (h.handles_encoder (h.handles_enable (h.handles_all (h.initialized (.inl hs)))))

theorem room_of_paramsLegal {cfg : Config.Params} (h : paramsLegal cfg = true) :
    24 ≤ cfg.symbolCapacity ∧ 1 ≤ cfg.queueDepth := by
  simp only [paramsLegal, Bool.and_eq_true, decide_eq_true_eq] at h
  exact ⟨h.1.2, h.2⟩

/-! ### The acceptance (R127) -/

theorem exec_send_idle {s : State} (hs : s.seq = .idle) (hcap : 24 ≤ s.cfg.symbolCapacity)
    (hq : s.qCount < s.cfg.queueDepth) (hx : s.input.txOk = true) (r g b : Channel) :
    exec (.send r g b) s = .next (sentState r g b s) := by
  have hencode : execEncode { s with color := colourOf r g b } = .next (encodedState r g b s) :=
    exec_encode (s := { s with color := colourOf r g b }) hcap
  have hinput : (encodedState r g b s).input = s.input := rfl
  have htransmit : execTransmit LOOP_COUNT (encodedState r g b s) = .next (submit (encodedState r g b s)) := by
    simp [execTransmit, hinput, hx, Nat.not_le_of_lt hq]
  have hseq : (encodedState r g b s).seq ≠ .fault := by simp [hs]
  have hsend : exec (.send r g b) s = sendAccept r g b s := by simp [exec, execSend, hs]
  rw [hsend, sendAccept, hencode, andThen_next hseq, htransmit, andThen_next (by rwa [submit_seq])]

/-! ### The hold (42_peripheral.md R155) -/

/-- A tick of the hold looks like this. -/
abbrev holdView (gen : GenState) : View := ⟨.hold, gen, false⟩

section
variable {good : TickInput → Prop} (hrst : ∀ x, good x → x.rst = false) {s : State} (hs : s.seq = .hold)
include hrst hs

theorem ticksTo_hold {u : State} (h : ∀ xs n, execHoldLow (onSchedule xs n s) = .next (onSchedule xs n u)) :
    TicksTo good s u := by
  intro xs n hgood
  have hseq : sequencerTick (onSchedule xs n s) = execHoldLow (onSchedule xs n s) := by
    simp [sequencerTick, exec, onSchedule, hs]
  rw [step_of_noRst (hrst _ hgood), hseq, h, mapNext_next]

theorem ticksTo_holdCount (hc : 1 < s.holdCnt) : TicksTo good s { s with holdCnt := s.holdCnt - 1 } :=
  ticksTo_hold hrst hs fun _ _ => if_pos hc

theorem ticksTo_holdDone (hc : s.holdCnt ≤ 1) : TicksTo good s { s with holdCnt := 0, seq := .idle } :=
  ticksTo_hold hrst hs fun _ _ => if_neg (Nat.not_lt_of_le hc)

theorem course_hold {n : Nat} (hc : s.holdCnt = n + 1) :
    Course good (List.replicate (n + 1) (holdView s.genState)) s { s with holdCnt := 0, seq := .idle } :=
  course_countdown (f := fun j => { s with holdCnt := s.holdCnt - j }) n
    (fun j hj => ticksTo_holdCount (s := { s with holdCnt := s.holdCnt - j }) hrst hs (by simp only; omega))
    (ticksTo_holdDone (s := { s with holdCnt := s.holdCnt - n }) hrst hs (by simp only; omega))
    fun _ => by simp [viewOf, hs, dout_low]

end

/-! ### The whole SEND -/

/-- The first tick of the frame of a SEND that was accepted with `s` as the encoded state, `w` TX ticks gone. -/
def frameBegun (s : State) (w : Nat) : State := beginFrame { s with seq := .tx, qCount := s.qCount + 1, waitCnt := w }

/-- The first tick of its hold. -/
def holdBegun (s : State) : State := { s with seq := .hold, holdCnt := s.cfg.resetHoldTicks }

/-- What is seen of a transmission of `c`: the start latency, then the frame. -/
def transmitViews (cfg : Config.Params) (c : Colour) : List View :=
  List.replicate cfg.startLatencyTicks startView ++ (wave c).map runView

section
variable {s : State} (h : StateInv s) (hs : s.seq = .idle)
include h hs

theorem stateInv_encodedState (r g b : Channel) : StateInv (encodedState r g b s) :=
  { h with
    frame := .inr (holdsFrame_encodedState h.frame r g b)
    frame_sent := fun _ => holdsFrame_encodedState h.frame r g b
    position_run := fun hg => by simp [genState_of_inv h (by simp [hs])] at hg }

theorem completeFrame_frameBegun (w : Nat) : completeFrame (frameBegun s w) = holdBegun s := by
  rw [eq_idleState h hs]
  rfl

/-- After the hold the state is the encoded one again. -/
theorem course_holdBegun :
    Course Undisturbed (List.replicate s.cfg.resetHoldTicks (holdView .gIdle)) (holdBegun s) s := by
  obtain ⟨n, hn⟩ := Nat.exists_eq_add_of_le' (Nat.le_trans (by decide : 1 ≤ 500) s.cfg.resetHold_floor)
  have hhold : Course Undisturbed (List.replicate (n + 1) (holdView s.genState)) (holdBegun s)
      { s with holdCnt := 0, seq := .idle } :=
    course_hold (fun _ hx => hx.1) (s := holdBegun s) rfl hn
  have hend : { s with holdCnt := 0, seq := .idle } = s := by
    rw [eq_idleState h hs]
    rfl
  rwa [hend, genState_of_inv h (by simp [hs]), ← hn] at hhold

variable (hf : HoldsFrame s)
include hf

theorem course_frame {w : Nat} (hw : WaitWindowAtLeast (w + frameTicks s.color) s) :
    Course Undisturbed ((wave s.color).map runView) (frameBegun s w) (holdBegun s) := by
  have hrun : RunsFrame (frameBegun s w) := ⟨rfl, rfl, hf, (room_of_paramsLegal (paramsLegal_of_idle h hs)).1⟩
  rw [← completeFrame_frameBegun h hs w]
  exact course_wave hrun rfl rfl rfl hw

/-- From the acceptance of a SEND to the hold. -/
theorem course_transmit (hw : WaitWindowAtLeast (s.cfg.startLatencyTicks + frameTicks s.color) s) :
    Course Undisturbed (transmitViews s.cfg s.color) { submit s with waitCnt := 0, seq := .tx } (holdBegun s) := by
  have hframe := course_frame h hs hf hw
  cases hl : s.cfg.startLatencyTicks with
  | zero =>
    have hsubmit : { submit s with waitCnt := 0, seq := .tx } = frameBegun s 0 := by
      simp only [submit, hl, if_true]
      rfl
    rwa [transmitViews, hl, hsubmit, List.replicate_zero, List.nil_append, ← hl]
  | succ n =>
    have hsent : { submit s with waitCnt := 0, seq := .tx } =
        { s with seq := .tx, qCount := s.qCount + 1, genState := .gStart, genStartCnt := n + 1, waitCnt := 0 } := by
      simp [submit, hl]
    have hcnt : s.genStartCnt = 0 := h.start_cnt_idle (by simp [genState_of_inv h (by simp [hs])])
    have hbegun : frameBegun s (n + 1) = beginFrame { s with
        seq := .tx, qCount := s.qCount + 1, genState := .gStart, genStartCnt := 0, waitCnt := 0 + (n + 1) } := by
      simp only [frameBegun, beginFrame, hcnt, Nat.zero_add]
    have hstart : Course Undisturbed (List.replicate (n + 1) startView) { submit s with waitCnt := 0, seq := .tx }
        (frameBegun s (n + 1)) := by
      rw [hsent, hbegun]
      exact course_start (s := { s with
        seq := .tx, qCount := s.qCount + 1, genState := .gStart, genStartCnt := n + 1, waitCnt := 0 }) rfl rfl rfl
        (waitWindow_mono hw (by simp only; omega))
    rw [transmitViews, hl]
    rw [hl] at hframe
    exact hstart.append hframe

/-- From the acceptance of a SEND to READY. -/
theorem course_send (hw : WaitWindowAtLeast (s.cfg.startLatencyTicks + frameTicks s.color) s) :
    Course Undisturbed
      (transmitViews s.cfg s.color ++ List.replicate s.cfg.resetHoldTicks (holdView .gIdle))
      { submit s with waitCnt := 0, seq := .tx } s :=
  (course_transmit h hs hf hw).append (course_holdBegun h hs)

end

end Sys2Proof.Proofs
end

section
/-! PROOFS. The timeline of a SEND, and that two SENDs of one colour are alike (41_transmitter.md R129, R131). -/

namespace Sys2Proof.Proofs

open Sys2Proof Sys2Proof.Machine Sys2Proof.Laws

/-! ### What a SEND leaves -/

/-- Whatever SYM holds, a frame replaces it as it would replace nothing. -/
theorem writeFrame_of_inv {s : State} (h : StateInv s) (c : Colour) : writeFrame c s.sym = writeFrame c [] := by
  rcases h.frame with ⟨hsym, _⟩ | hsym
  · rw [hsym]
  · rw [HoldsFrame] at hsym
    rw [hsym, writeFrame_writeFrame]

theorem symbolAt_sent (r g b : Channel) (s : State) (xs : List TickInput) (n p : Nat) :
    (onSchedule xs n (encodedState r g b s)).symbolAt p =
      if p < FRAME_SYMBOLS then frameSymbol (colourOf r g b) p else s.symbolAt p := by
  simp only [symbolAt_eq, onSchedule, record_writeFrame]

/-- Two IDLE states of one machine leave the same state behind, the schedule and the free records of SYM apart. -/
theorem encodedState_congr {s s' : State} (h : StateInv s) (h' : StateInv s') (hs : s.seq = .idle)
    (hs' : s'.seq = .idle) (hcfg : s.cfg = s'.cfg) (r g b : Channel) :
    encodedState r g b s =
      { encodedState r g b s' with inputs := s.inputs, tick := s.tick, symReset := s.symReset } := by
  simp only [encodedState, writeFrame_of_inv h, writeFrame_of_inv h']
  rw [eq_idleState h hs, eq_idleState h' hs']
  simp only [idleState, resetBlock, State.resetOf, hcfg]

/-! ### What is seen of a SEND -/

/-- What is seen of a SEND of `c`, from the tick of its acceptance to the last tick of its hold (R129). -/
def sendViews (cfg : Config.Params) (c : Colour) : List View :=
  ⟨.idle, .gIdle, false⟩ :: (transmitViews cfg c ++ List.replicate cfg.resetHoldTicks (holdView .gIdle))

theorem length_sendViews (cfg : Config.Params) (c : Colour) :
    (sendViews cfg c).length = 1 + cfg.startLatencyTicks + frameTicks c + cfg.resetHoldTicks := by
  simp only [sendViews, transmitViews, List.length_cons, List.length_append, List.length_replicate, List.length_map,
    length_wave]
  omega

theorem line_sendViews (cfg : Config.Params) (c : Colour) :
    (sendViews cfg c).map View.line =
      false :: (List.replicate cfg.startLatencyTicks false ++ wave c ++ List.replicate cfg.resetHoldTicks false) := by
  have hwave : View.line ∘ runView = id := rfl
  simp [sendViews, transmitViews, hwave]

/-- A SEND that nothing disturbs, as it is seen, and the state it leaves. -/
theorem send_observed {s : State} {r g b : Channel} (h : StateInv s) (hs : s.seq = .idle)
    (hv : s.input.cmdValid = true) (hd : decodeCommand s.input.cmdWord = .instr (.send r g b))
    (hr : NoReset (sendViews s.cfg (colourOf r g b)).length s)
    (hf : NoPeripheralFailure (sendViews s.cfg (colourOf r g b)).length s)
    (hw : WaitWindowAtLeast (s.cfg.startLatencyTicks + frameTicks (colourOf r g b)) s) :
    ∃ xs n, Observed (sendViews s.cfg (colourOf r g b)) s (onSchedule xs n (encodedState r g b s)) := by
  have hgood : ∀ j < (sendViews s.cfg (colourOf r g b)).length, Undisturbed (s.inputAt j) := fun j hj =>
    undisturbed_inputAt hr hf hj
  obtain ⟨hr0, hf0⟩ := hgood 0 (Nat.succ_pos _)
  obtain ⟨_, _, _, hx, _⟩ := (noFailure_iff _).mp hf0
  obtain ⟨hcap, hdepth⟩ := room_of_paramsLegal (paramsLegal_of_idle h hs)
  have hroom : s.qCount < s.cfg.queueDepth := h.queue_empty (by simp [hs]) ▸ hdepth
  have hfirst : step s = .next (endTick (sentState r g b s)) := by
    rw [step_command (.inr hs) hr0 hv hd, exec_send_idle hs hcap hroom hx, mapNext_next]
  have hcourse := course_send (stateInv_encodedState h hs r g b) hs (holdsFrame_encodedState h.frame r g b) hw
  have hview : viewOf s = ⟨.idle, .gIdle, false⟩ := by
    simp [viewOf, hs, genState_of_inv h, dout_low]
  have hobs := hcourse.observed_after hfirst fun j hj => hgood (j + 1) (Nat.succ_lt_succ hj)
  rwa [hview] at hobs

/-- The table of R129, for every tick before READY. -/
theorem sendViews_phases {cfg : Config.Params} {c : Colour} {k : Nat} {v : View} (hv : (sendViews cfg c)[k]? = some v) :
    (k = 0 → v.seq = .idle) ∧
    (1 ≤ k → k ≤ cfg.startLatencyTicks → v.seq = .tx ∧ v.gen = .gStart) ∧
    (1 + cfg.startLatencyTicks ≤ k → k ≤ cfg.startLatencyTicks + frameTicks c → v.seq = .tx ∧ v.gen = .gRun) ∧
    (1 + cfg.startLatencyTicks + frameTicks c ≤ k → k ≤ cfg.startLatencyTicks + frameTicks c + cfg.resetHoldTicks →
      v.seq = .hold) := by
  cases k with
  | zero =>
    obtain rfl : (⟨.idle, .gIdle, false⟩ : View) = v := Option.some.inj hv
    exact ⟨fun _ => rfl, by omega, by omega, by omega⟩
  | succ k =>
    rw [sendViews, List.getElem?_cons_succ, transmitViews, List.getElem?_append, List.getElem?_append,
      List.length_append, List.length_replicate, List.length_map, length_wave] at hv
    split_ifs at hv
    · obtain rfl := (List.mem_replicate.mp (List.mem_of_getElem? hv)).2
      exact ⟨by omega, fun _ _ => ⟨rfl, rfl⟩, by omega, by omega⟩
    · obtain ⟨level, _, rfl⟩ := List.mem_map.mp (List.mem_of_getElem? hv)
      exact ⟨by omega, by omega, fun _ _ => ⟨rfl, rfl⟩, by omega⟩
    · obtain rfl := (List.mem_replicate.mp (List.mem_of_getElem? hv)).2
      exact ⟨by omega, by omega, by omega, fun _ _ => rfl⟩

/-! ### The obligations -/

/-- Settles O36: the SEND is seen phase after phase, and its line is that of the phases. -/
theorem sendTimeline : Obligations.SendTimeline := by
  unfold Obligations.SendTimeline
  intro s r g b h hs hv hd c Ls F H n hr hf hw
  have hn : (sendViews s.cfg c).length = n := length_sendViews s.cfg c
  obtain ⟨xs, m, hobs⟩ := send_observed h hs hv hd (by rwa [hn]) (by rwa [hn]) hw
  obtain ⟨hends, hline⟩ := hobs.of_length hn
  refine ⟨fun k hk => ?_, hline.trans (line_sendViews s.cfg c), fun hl hh => ?_⟩
  · rcases hk.lt_or_eq with hlt | rfl
    · obtain ⟨t, ht, hview⟩ := hobs.views k (hn ▸ hlt)
      obtain ⟨hidle, hstart, hrun, hhold⟩ := sendViews_phases hview
      exact ⟨t, ht, hidle, hstart, hrun, hhold, fun hkn => absurd hkn hlt.ne⟩
    · refine ⟨_, hends, by omega, by omega, by omega, by omega, fun _ => ⟨hs, ?_, ?_⟩⟩
      · exact (cmdReady_iff _).mpr (.inr hs)
      · exact dout_low (by simp [onSchedule, hs])
  · have hbounds := frameTicks_bounds c
    omega

/-- Settles O37: both SENDs are seen alike, and end in the state they began in with the colour and its frame. -/
theorem sendsOfOneColourAreIdentical : Obligations.SendsOfOneColourAreIdentical := by
  unfold Obligations.SendsOfOneColourAreIdentical
  intro s s' r g b h h' hs hs' hcfg hv hv' hd hd' c n hr hr' hf hf' hw
  have hn : (sendViews s.cfg c).length = n := length_sendViews s.cfg c
  obtain ⟨xs, m, hobs⟩ := send_observed h hs hv hd (by rwa [hn]) (by rwa [hn]) hw
  obtain ⟨xs', m', hobs'⟩ := send_observed h' hs' hv' hd' (by rwa [← hcfg, hn]) (by rwa [← hcfg, hn])
    (by rw [WaitWindowAtLeast, ← hcfg]; exact hw)
  rw [← hcfg] at hobs'
  obtain ⟨hends, hline⟩ := hobs.of_length hn
  obtain ⟨hends', hline'⟩ := hobs'.of_length hn
  refine ⟨hline.trans hline'.symm, _, _, hends, hends', hs, rfl, fun p hp => ⟨?_, ?_⟩, fun p hp => ?_, ?_, ?_⟩
  · rw [symbolAt_sent, if_pos hp, frameList_getElem? c hp]
  · rw [symbolAt_sent, symbolAt_sent, if_pos hp, if_pos hp]
  · rw [symbolAt_sent, if_neg (Nat.not_lt_of_le hp)]
  · simp only [onSchedule]
  · rw [encodedState_congr h h' hs hs' hcfg r g b]
    simp only [onSchedule]

end Sys2Proof.Proofs
end

section
/-! PROOFS. The legal configuration, the tick that completes a frame, and what a SEND puts on the line, to the next
SEND that is accepted (42_peripheral.md R143, R148, R151, R154). -/

namespace Sys2Proof.Proofs

open Sys2Proof Sys2Proof.Machine Sys2Proof.Laws

/-! ### Runs in two parts -/

theorem runTicks_succ_eq_next {n : Nat} {s t : State} :
    runTicks (n + 1) s = .next t ↔ ∃ u, step s = .next u ∧ runTicks n u = .next t := by
  rw [runTicks]
  cases step s <;> simp

theorem runTicks_add {n : Nat} {s t : State} (h : runTicks n s = .next t) (m : Nat) :
    runTicks (n + m) s = runTicks m t := by
  induction n generalizing s with
  | zero => rw [Host.Outcome.next.inj h, Nat.zero_add]
  | succ n ih =>
    obtain ⟨u, hu, hrest⟩ := runTicks_succ_eq_next.mp h
    rw [Nat.add_right_comm, runTicks_succ hu, ih hrest]

theorem lineTrace_add {n : Nat} {s t : State} (h : runTicks n s = .next t) (m : Nat) :
    lineTrace (n + m) s = lineTrace n s ++ lineTrace m t := by
  induction n generalizing s with
  | zero => rw [Host.Outcome.next.inj h, Nat.zero_add, lineTrace, List.nil_append]
  | succ n ih =>
    obtain ⟨u, hu, hrest⟩ := runTicks_succ_eq_next.mp h
    rw [Nat.add_right_comm, lineTrace_succ hu, lineTrace_succ hu, ih hrest, List.cons_append]

/-! ### A TX tick without a wait error (R152) -/

theorem step_tx {s : State} (hs : s.seq = .tx) (hr : s.input.rst = false) (he : s.input.waitErr = false) :
    step s =
      if timedOut s then .next (endTick (raise .timeout s))
      else Result.mapNext endTick (genAdvance { s with waitCnt := s.waitCnt + 1 }) := by
  rw [step_of_noRst hr]
  simp [sequencerTick, hs, exec, execWaitComplete, he, apply_ite (Result.mapNext endTick)]

theorem step_tx_within {s : State} (hs : s.seq = .tx) (hr : s.input.rst = false) (he : s.input.waitErr = false)
    (ht : timedOut s = false) :
    step s = Result.mapNext endTick (genAdvance { s with waitCnt := s.waitCnt + 1 }) := by
  rw [step_tx hs hr he, if_neg (by simp [ht])]

/-- The last tick of the last record is the completion (R151). -/
theorem runTick_last {e : Symbol} {s : State} (hi : s.symIdx = 23#5) (hh : s.half = true)
    (he : e.duration1.toNat ≤ s.elapsed.toNat + 1) : runTick e s = completeFrame s := by
  simp [runTick, hi, hh, Symbol.halfTicks, Nat.not_lt_of_le he]

/-! ### The line outside TX -/

/-- Nothing but an accepted SEND leads into TX. -/
theorem tickCase_into_tx {s t : State} (h : TickCase s t) (ht : t.seq = .tx) :
    s.seq = .tx ∨
      accepted s = true ∧ ∃ r g b, decodeCommand s.input.cmdWord = .instr (.send r g b) := by
  cases h
  case sendAccepted r g b _ ha hd _ _ _ => exact .inr ⟨ha, r, g, b, hd⟩
  case generator hs _ _ _ => exact .inl hs
  case noCommand | initCount | holdCount | halted => exact .inl ht
  all_goals simp at ht

/-- This tick accepts a SEND. -/
def AcceptsSend (s : State) : Prop :=
  s.input.rst = false ∧ accepted s = true ∧ ∃ r g b, decodeCommand s.input.cmdWord = .instr (.send r g b)

theorem exec_init_next (s : State) : ∃ t, exec .init s = .next t := by
  cases hs : s.seq <;> simp [exec, execInit, hs]

/-- INIT and an illegal word always have a next state. -/
theorem acceptCommand_next {s : State} {w : CmdWord} (h : ∀ r g b, decodeCommand w ≠ .instr (.send r g b)) :
    ∃ t, acceptCommand w s = .next t := by
  unfold acceptCommand
  split
  · next i hd =>
    rcases decodeCommand_cases hd with rfl | ⟨r, g, b, rfl⟩
    · exact exec_init_next s
    · exact absurd hd (h r g b)
  · exact ⟨_, rfl⟩

/-- Outside TX only the acceptance of a SEND could stop the model. -/
theorem sequencerTick_next {s : State} (hs : s.seq ≠ .tx) (hr : s.input.rst = false) (h : ¬ AcceptsSend s) :
    ∃ t, sequencerTick s = .next t := by
  have hready : ∃ t, readyTick s = .next t := by
    unfold readyTick
    split
    · next ha => exact acceptCommand_next fun r g b hd => h ⟨hr, ha, r, g, b, hd⟩
    · exact ⟨s, rfl⟩
  unfold sequencerTick
  split
  · exact hready
  · next hb =>
    rw [initBusyTick, initComplete_ite (by simp [hb])]
    split_ifs <;> exact ⟨_, rfl⟩
  · exact hready
  · next htx => exact absurd htx hs
  · rw [exec, execHoldLow]
    split_ifs <;> exact ⟨_, rfl⟩
  · exact ⟨s, rfl⟩

/-- A tick outside TX that accepts no SEND leads to a state outside TX. -/
theorem step_outside_tx {s : State} (hs : s.seq ≠ .tx) (h : ¬ AcceptsSend s) :
    ∃ t, step s = .next t ∧ t.seq ≠ .tx := by
  cases hr : s.input.rst with
  | true => exact ⟨_, step_of_rst hr, by simp⟩
  | false =>
    obtain ⟨t, ht⟩ := sequencerTick_next hs hr h
    refine ⟨endTick t, by rw [step_of_noRst hr, ht, mapNext_next], fun htx => ?_⟩
    rcases tickCase_into_tx (sequencerTick_cases ht) htx with hs' | ⟨ha, hd⟩
    · exact hs hs'
    · exact h ⟨hr, ha, hd⟩

/-- Outside TX the line is low to the end of the tick that accepts a SEND. -/
theorem lineTrace_outside_tx (m : Nat) {s : State} (hs : s.seq ≠ .tx)
    (h : ∀ j t, j + 1 < m → runTicks j s = .next t → ¬ AcceptsSend t) : lineTrace m s = List.replicate m false := by
  have hlow : dout s = false := dout_low fun hrun => hs hrun.1
  induction m generalizing s with
  | zero => rfl
  | succ m ih =>
    cases m with
    | zero =>
      simp only [lineTrace, hlow]
      split <;> rfl
    | succ m =>
      obtain ⟨u, hu, hseq⟩ := step_outside_tx hs (h 0 s (by omega) rfl)
      have hrest := ih hseq (fun j t hj ht => h (j + 1) t (by omega) ((runTicks_succ hu j).trans ht))
        (dout_low fun hrun => hseq hrun.1)
      rw [lineTrace_succ hu, hlow, hrest, ← List.replicate_succ]

/-! ### A transmission -/

/-- The tick that accepts a SEND with no failure (41_transmitter.md R127). -/
theorem step_send {s : State} {r g b : Channel} (h : StateInv s) (hs : s.seq = .idle)
    (hv : s.input.cmdValid = true) (hd : decodeCommand s.input.cmdWord = .instr (.send r g b))
    (hgood : Undisturbed s.input) : step s = .next (endTick (sentState r g b s)) := by
  obtain ⟨_, _, _, hx, _⟩ := (noFailure_iff _).mp hgood.2
  obtain ⟨hcap, hdepth⟩ := room_of_paramsLegal (paramsLegal_of_idle h hs)
  have hroom : s.qCount < s.cfg.queueDepth := h.queue_empty (by simp [hs]) ▸ hdepth
  rw [step_command (.inr hs) hgood.1 hv hd, exec_send_idle hs hcap hroom hx, mapNext_next]

theorem length_transmitViews (cfg : Config.Params) (c : Colour) :
    (transmitViews cfg c).length = cfg.startLatencyTicks + frameTicks c := by
  simp [transmitViews, length_wave]

theorem line_transmitViews (cfg : Config.Params) (c : Colour) :
    (transmitViews cfg c).map View.line = List.replicate cfg.startLatencyTicks false ++ wave c := by
  have hwave : View.line ∘ runView = id := rfl
  simp [transmitViews, hwave]

theorem seq_of_mem_transmitViews {cfg : Config.Params} {c : Colour} {v : View} (h : v ∈ transmitViews cfg c) :
    v.seq = .tx := by
  rcases List.mem_append.mp h with h | h
  · rw [(List.mem_replicate.mp h).2]
  · obtain ⟨_, _, rfl⟩ := List.mem_map.mp h
    rfl

/-- From the acceptance of a SEND to the first tick of its hold. -/
theorem course_sent {s : State} (h : StateInv s) (hs : s.seq = .idle) (r g b : Channel)
    (hw : WaitWindowAtLeast (s.cfg.startLatencyTicks + frameTicks (colourOf r g b)) s) :
    Course Undisturbed (transmitViews s.cfg (colourOf r g b)) (sentState r g b s) (holdBegun (encodedState r g b s)) :=
  course_transmit (stateInv_encodedState h hs r g b) hs (holdsFrame_encodedState h.frame r g b) hw

/-- A SEND that nothing disturbs, to the last tick of its frame: the state it ends in and the line (R148). -/
theorem send_transmits {s : State} {r g b : Channel} (h : StateInv s) (hs : s.seq = .idle)
    (hv : s.input.cmdValid = true) (hd : decodeCommand s.input.cmdWord = .instr (.send r g b))
    (hgood : ∀ j < 1 + s.cfg.startLatencyTicks + frameTicks (colourOf r g b), Undisturbed (s.inputAt j))
    (hw : WaitWindowAtLeast (s.cfg.startLatencyTicks + frameTicks (colourOf r g b)) s) :
    ∃ xs n,
      runTicks (1 + s.cfg.startLatencyTicks + frameTicks (colourOf r g b)) s =
        .next (onSchedule xs n (holdBegun (encodedState r g b s))) ∧
      lineTrace (1 + s.cfg.startLatencyTicks + frameTicks (colourOf r g b)) s =
        false :: (List.replicate s.cfg.startLatencyTicks false ++ wave (colourOf r g b)) := by
  have hlen := length_transmitViews s.cfg (colourOf r g b)
  obtain ⟨xs, n, hobs⟩ := (course_sent h hs r g b hw).observed_after
    (step_send h hs hv hd (hgood 0 (by omega))) fun j hj => hgood (j + 1) (by omega)
  obtain ⟨hends, hline⟩ := hobs.of_length (n := 1 + s.cfg.startLatencyTicks + frameTicks (colourOf r g b))
    (by rw [List.length_cons]; omega)
  have hlow : dout s = false := dout_low (by simp [hs])
  exact ⟨xs, n, hends, by rw [hline, List.map_cons, line_transmitViews, viewOf, hlow]⟩

/-! ### The obligations -/

/-- Settles O15: the floor of the hold is a field of the parameters. -/
theorem legalConfiguration : Obligations.LegalConfiguration := by
  unfold Obligations.LegalConfiguration
  exact ⟨fun cfg => by simp [paramsLegal, and_assoc], fun cfg => cfg.resetHold_floor⟩

/-- Settles O30: the tick runs the generator, and its last tick is the completion. -/
theorem lastTickCompletesTheFrame : Obligations.LastTickCompletesTheFrame := by
  unfold Obligations.LastTickCompletesTheFrame
  intro s e hs hr hw ht hg hcap hi hh hsym hl he
  have hidx : s.symIdx.toNat = 23 := by rw [hi]; rfl
  have hrec : s.symbolAt s.symIdx.toNat = e := by rw [hidx, hsym]
  have hgen : genAdvance { s with waitCnt := s.waitCnt + 1 } = .next (runTick e { s with waitCnt := s.waitCnt + 1 }) :=
    hrec ▸ genAdvance_run (s := { s with waitCnt := s.waitCnt + 1 }) hg hcap (by simp [hidx]) (hrec ▸ hl)
  rw [step_tx_within hs hr hw ht, hgen, runTick_last (s := { s with waitCnt := s.waitCnt + 1 }) hi hh he,
    mapNext_next]
  rfl

/-- Settles O35: the SEND is observed to its hold, and from there on nothing but a SEND raises the line. -/
theorem sendPutsItsWaveOnTheLine : Obligations.SendPutsItsWaveOnTheLine := by
  unfold Obligations.SendPutsItsWaveOnTheLine
  intro s r g b h hs hv hd c n hr hf hw
  obtain ⟨xs, i, hends, hline⟩ := send_transmits h hs hv hd (fun _ hj => undisturbed_inputAt hr hf hj) hw
  refine ⟨hline, ⟨_, hends, rfl, rfl, dout_low (by simp [onSchedule, holdBegun]), rfl⟩, fun m hno => ?_⟩
  rw [lineTrace_add hends, hline, List.cons_append, lineTrace_outside_tx m]
  · simp [onSchedule, holdBegun]
  · exact fun j t hj ht ⟨hr, ha, r', g', b', hd⟩ => hno j t hj ((runTicks_add hends j).trans ht) hr ha r' g' b' hd

end Sys2Proof.Proofs
end

section
/-! PROOFS. The wait window of a SEND (42_peripheral.md R153): until it runs out, a finite window changes nothing of the
run, so `wait_cnt` counts the ticks of the transmission that the same machine makes without a window. -/

namespace Sys2Proof.Proofs

open Sys2Proof Sys2Proof.Machine Sys2Proof.Laws

/-! ### The machine without a window -/

/-- `s` of a machine whose wait is unbounded. -/
def unbounded (s : State) : State := { s with cfg := { s.cfg with waitTimeoutTicks := none } }

theorem stateInv_unbounded {s : State} (h : StateInv s) : StateInv (unbounded s) := { h with }

theorem holdsFrame_unbounded {s : State} (h : HoldsFrame s) : HoldsFrame (unbounded s) := h

theorem waitWindow_unbounded (n : Nat) (s : State) : WaitWindowAtLeast n (unbounded s) := fun _ hT => by cases hT

theorem timedOut_unbounded (s : State) : timedOut (unbounded s) = false := rfl

theorem submit_unbounded (s : State) : submit (unbounded s) = unbounded (submit s) := by
  simp only [submit, apply_ite unbounded]
  rfl

theorem startTick_unbounded (s : State) : startTick (unbounded s) = unbounded (startTick s) := by
  simp only [startTick, apply_ite unbounded]
  rfl

theorem runTick_unbounded (e : Symbol) (s : State) : runTick e (unbounded s) = unbounded (runTick e s) := by
  simp only [runTick, apply_ite unbounded]
  rfl

theorem genAdvance_unbounded (s : State) : genAdvance (unbounded s) = Result.mapNext unbounded (genAdvance s) := by
  have hgen : (unbounded s).genState = s.genState := rfl
  rw [genAdvance, genAdvance, hgen]
  split
  · rfl
  · rw [startTick_unbounded, mapNext_next]
  · rw [runTick_unbounded, apply_ite (Result.mapNext unbounded), apply_ite (Result.mapNext unbounded)]
    rfl

theorem waitErr_of_undisturbed {x : TickInput} (h : Undisturbed x) : x.waitErr = false := by
  obtain ⟨_, _, _, _, he⟩ := (noFailure_iff x).mp h.2
  exact he

/-- Within the window, a TX tick is that of the machine without one. -/
theorem step_unbounded {s : State} (hs : s.seq = .tx) (hx : Undisturbed s.input) (ht : timedOut s = false) :
    step (unbounded s) = Result.mapNext unbounded (step s) := by
  have he := waitErr_of_undisturbed hx
  have hgen : genAdvance { unbounded s with waitCnt := (unbounded s).waitCnt + 1 } =
      Result.mapNext unbounded (genAdvance { s with waitCnt := s.waitCnt + 1 }) :=
    genAdvance_unbounded { s with waitCnt := s.waitCnt + 1 }
  rw [step_tx_within hs hx.1 he ht, step_tx_within (s := unbounded s) hs hx.1 he (timedOut_unbounded s), hgen]
  cases genAdvance { s with waitCnt := s.waitCnt + 1 } <;> rfl

/-! ### `wait_cnt` -/

/-- A generator tick within the frame leaves the parameters and `wait_cnt`. -/
theorem genAdvance_wait {s t : State} (h : genAdvance s = .next t) :
    t.cfg = s.cfg ∧ (t.seq = .hold ∨ t.waitCnt = s.waitCnt) := by
  rcases genAdvance_cases h with ⟨_, rfl⟩ | ⟨_, rfl⟩ | ⟨_, _, _, _, rfl⟩
  · simp
  · rcases startTick_cases s with ⟨_, hu⟩ | ⟨_, hu⟩ <;> simp [hu]
  · rcases runTick_cases (s.symbolAt s.symIdx.toNat) s with ⟨_, hu⟩ | ⟨_, _, hu⟩ | ⟨_, _, _, hu⟩ | ⟨_, _, _, hu⟩ <;>
      simp [hu]

theorem step_tx_wait {s t : State} (hs : s.seq = .tx) (hx : Undisturbed s.input) (ht : timedOut s = false)
    (h : step s = .next t) (htx : t.seq = .tx) : t.cfg = s.cfg ∧ t.waitCnt = s.waitCnt + 1 := by
  rw [step_tx_within hs hx.1 (waitErr_of_undisturbed hx) ht] at h
  obtain ⟨u, hu, rfl⟩ := mapNext_eq_next.mp h
  obtain ⟨hcfg, hwait⟩ := genAdvance_wait hu
  exact ⟨hcfg, hwait.resolve_left fun hhold => by simp [hhold] at htx⟩

/-- As long as the machine without a window stays in TX, the one with it does too, until the window runs out. -/
theorem runTicks_within_window {T : Nat} (k : Nat) {s : State} (hs : s.seq = .tx) (hT : s.cfg.waitTimeoutTicks = some T)
    (hk : s.waitCnt + k ≤ T) (hx : ∀ j < k, Undisturbed (s.inputAt j))
    (hrun : ∀ j ≤ k, ∃ u, runTicks j (unbounded s) = .next u ∧ u.seq = .tx) :
    ∃ t, runTicks k s = .next t ∧ t.seq = .tx ∧ t.waitCnt = s.waitCnt + k ∧ t.cfg = s.cfg := by
  induction k generalizing s with
  | zero => exact ⟨s, rfl, hs, rfl, rfl⟩
  | succ k ih =>
    have ht : timedOut s = false := by
      simp only [timedOut, hT, decide_eq_false_iff_not]
      omega
    have hx0 : Undisturbed s.input := hx 0 k.succ_pos
    obtain ⟨_, hone, htx⟩ := hrun 1 (by omega)
    obtain ⟨v, hv, hzero⟩ := runTicks_succ_eq_next.mp hone
    obtain rfl := Host.Outcome.next.inj hzero
    obtain ⟨u, hu, rfl⟩ := mapNext_eq_next.mp ((step_unbounded hs hx0 ht).symm.trans hv)
    obtain ⟨hcfg, hwait⟩ := step_tx_wait hs hx0 ht hu htx
    have hxu : ∀ j < k, Undisturbed (u.inputAt j) := fun j hj =>
      step_inputAt hu j ▸ hx (j + 1) (Nat.succ_lt_succ hj)
    have hrunu : ∀ j ≤ k, ∃ w, runTicks j (unbounded u) = .next w ∧ w.seq = .tx := fun j hj =>
      runTicks_succ hv j ▸ hrun (j + 1) (Nat.succ_le_succ hj)
    obtain ⟨t, hends, hseq, hcnt, hcfg'⟩ := ih (s := u) htx (hcfg ▸ hT) (by omega) hxu hrunu
    exact ⟨t, (runTicks_succ hu k).trans hends, hseq, by omega, hcfg'.trans hcfg⟩

/-- The first TX tick beyond the window. -/
theorem step_timeout {s : State} {T : Nat} (hs : s.seq = .tx) (hx : Undisturbed s.input)
    (hT : s.cfg.waitTimeoutTicks = some T) (hk : T ≤ s.waitCnt) : step s = .next (endTick (raise .timeout s)) := by
  rw [step_tx hs hx.1 (waitErr_of_undisturbed hx), if_pos (by simpa [timedOut, hT] using hk)]

/-! ### The ticks of a SEND -/

theorem course_sent_unbounded {s : State} (h : StateInv s) (hs : s.seq = .idle) (r g b : Channel) :
    Course Undisturbed (transmitViews s.cfg (colourOf r g b)) (unbounded (sentState r g b s))
      (holdBegun (unbounded (encodedState r g b s))) := by
  have hstart : { submit (unbounded (encodedState r g b s)) with waitCnt := 0, seq := .tx } =
      unbounded (sentState r g b s) := by
    rw [submit_unbounded]
    rfl
  have hcourse := course_transmit (stateInv_unbounded (stateInv_encodedState h hs r g b)) hs
    (holdsFrame_unbounded (holdsFrame_encodedState h.frame r g b)) (waitWindow_unbounded _ _)
  rwa [hstart] at hcourse

/-- TX tick `k` of a SEND has `wait_cnt = k`, up to the end of the frame or of the window. -/
theorem send_waits {s : State} {r g b : Channel} {T k : Nat} (h : StateInv s) (hs : s.seq = .idle)
    (hv : s.input.cmdValid = true) (hd : decodeCommand s.input.cmdWord = .instr (.send r g b))
    (hT : s.cfg.waitTimeoutTicks = some T)
    (hgood : ∀ j < 1 + s.cfg.startLatencyTicks + frameTicks (colourOf r g b), Undisturbed (s.inputAt j))
    (hk : k < s.cfg.startLatencyTicks + frameTicks (colourOf r g b)) (hkT : k ≤ T) :
    ∃ t, runTicks (1 + k) s = .next t ∧ t.seq = .tx ∧ t.waitCnt = k ∧ t.cfg = s.cfg := by
  have hfirst := step_send h hs hv hd (hgood 0 (by omega))
  have hin : ∀ j < s.cfg.startLatencyTicks + frameTicks (colourOf r g b),
      Undisturbed ((endTick (sentState r g b s)).inputAt j) := fun j hj => by
    rw [step_inputAt hfirst]
    exact hgood (j + 1) (by omega)
  have hobs := (course_sent_unbounded h hs r g b).observed (xs := (sentState r g b s).inputs.tail)
    (n := (sentState r g b s).tick + 1) fun j hj => hin j (by rwa [length_transmitViews] at hj)
  have hrun : ∀ j ≤ k, ∃ u, runTicks j (unbounded (endTick (sentState r g b s))) = .next u ∧
      u.seq = .tx := fun j hj => by
    obtain ⟨u, hu, hview⟩ := hobs.views j (by rw [length_transmitViews]; omega)
    exact ⟨u, hu, seq_of_mem_transmitViews (List.mem_of_getElem? hview)⟩
  have hcfg : (endTick (sentState r g b s)).cfg = s.cfg := by
    rcases submit_cases (encodedState r g b s) with ⟨_, hu⟩ | ⟨_, hu⟩ <;> simp [hu]
  obtain ⟨t, hends, hseq, hcnt, hcfg'⟩ := runTicks_within_window k (s := endTick (sentState r g b s)) rfl
    (hcfg ▸ hT) (by simpa using hkT) (fun j hj => hin j (by omega)) hrun
  refine ⟨t, ?_, hseq, by simpa using hcnt, hcfg'.trans hcfg⟩
  rw [Nat.add_comm, runTicks_succ hfirst, hends]

/-! ### The obligation -/

/-- Settles O34: the machine without a window shows what a finite window lets through, and the tick in which `wait_cnt`
reaches it raises. -/
theorem timeoutFiresExactlyBelowTheFrameLength : Obligations.TimeoutFiresExactlyBelowTheFrameLength := by
  unfold Obligations.TimeoutFiresExactlyBelowTheFrameLength
  intro s r g b T h hs hv hd hT c n hr hf
  have hgood : ∀ j < n, Undisturbed (s.inputAt j) := fun j hj => undisturbed_inputAt hr hf hj
  have hhold : s.cfg.startLatencyTicks + frameTicks c ≤ T → ∃ t, runTicks n s = .next t ∧ t.seq = .hold := fun hle => by
    have hw : WaitWindowAtLeast (s.cfg.startLatencyTicks + frameTicks c) s := fun t ht => by
      rw [hT] at ht
      exact Option.some.inj ht ▸ hle
    obtain ⟨xs, i, hends, _⟩ := send_transmits h hs hv hd hgood hw
    exact ⟨_, hends, rfl⟩
  have hwaits : ∀ k < s.cfg.startLatencyTicks + frameTicks c, k ≤ T →
      ∃ t, runTicks (1 + k) s = .next t ∧ t.seq = .tx ∧ t.waitCnt = k ∧ t.cfg = s.cfg := fun k hk hkT =>
    send_waits h hs hv hd hT hgood hk hkT
  refine ⟨fun hlt => ⟨fun k hk => ?_, ?_⟩, fun hle => ⟨fun k hk => ?_, hhold hle⟩, fun hle => hhold ?_⟩
  · obtain ⟨t, ht, hseq, hcnt, _⟩ := hwaits k (by omega) hk
    exact ⟨t, ht, hseq, hcnt⟩
  · obtain ⟨t, ht, hseq, hcnt, hcfg⟩ := hwaits T hlt le_rfl
    have hx : Undisturbed t.input := by
      rw [State.input, runTicks_inputAt ht]
      exact hgood _ (by omega)
    have hstep := step_timeout hseq hx (hcfg ▸ hT) hcnt.ge
    have hticks : 2 + T = 1 + T + 1 := by omega
    exact ⟨_, by rw [hticks, runTicks_add ht, runTicks_succ hstep, runTicks], rfl, rfl, rfl⟩
  · obtain ⟨t, ht, hseq, hcnt, _⟩ := hwaits k hk (by omega)
    exact ⟨t, ht, hseq, hcnt⟩
  · have hbounds := frameTicks_bounds c
    omega

end Sys2Proof.Proofs
end

section
/-! PROOFS. How FAULT is entered and how it is left (60_exceptions.md R170 to R182). -/

namespace Sys2Proof.Proofs

open Sys2Proof Sys2Proof.Machine Sys2Proof.Laws

/-! ### Entering FAULT (60_exceptions.md R180) -/

/-- The rows of the tables of R171 to R174. -/
theorem code_sub_mem_table (x : Cause) :
    (x.code, x.sub) ∈
      [(1#4, 1#4), (1#4, 2#4), (1#4, 3#4), (1#4, 4#4), (1#4, 5#4), (2#4, 1#4), (2#4, 2#4), (2#4, 3#4), (3#4, 1#4),
        (4#4, 1#4), (4#4, 2#4)] := by
  cases x <;> decide

/-- From `s` to `u` init_done stays and no handle bit is lost: so it is with all that a tick does before it raises. -/
structure KeepsInit (s u : State) : Prop where
  initDone : u.initDone = s.initDone
  chanAlloc : s.chanAlloc = true → u.chanAlloc = true
  copyEnc : s.copyEnc = true → u.copyEnc = true
  chanEn : s.chanEn = true → u.chanEn = true

/-- A tick enters FAULT by a raise, and by nothing else. -/
theorem tickCase_into_fault {s t : State} (h : TickCase s t) (hs : s.seq ≠ .fault) (ht : t.seq = .fault) :
    ∃ x u, t = raise x u ∧ KeepsInit s u := by
  cases h
  case noCommand | halted | initCount | holdCount => exact absurd ht hs
  case initAccepted | sendAccepted | initCompleted | holdDone => cases ht
  case generator hg =>
    rcases genAdvance_seq hg with hseq | hseq
    · exact absurd (hseq.symm.trans ht) hs
    · simp [ht] at hseq
  case encoderUnavailable => exact ⟨_, _, rfl, rfl, fun _ => rfl, id, id⟩
  case enableFailed => exact ⟨_, _, rfl, rfl, fun _ => rfl, fun _ => rfl, id⟩
  all_goals exact ⟨_, _, rfl, rfl, id, id, id⟩

theorem step_into_fault {s t : State} (h : step s = .next t) (hs : s.seq ≠ .fault) (ht : t.seq = .fault) :
    ∃ x u, t = endTick (raise x u) ∧ KeepsInit s u := by
  rcases step_cases h with ⟨_, rfl⟩ | ⟨_, v, hv, rfl⟩
  · simp at ht
  · obtain ⟨x, u, rfl, hu⟩ := tickCase_into_fault hv hs ht
    exact ⟨x, u, rfl, hu⟩

/-! ### The line in FAULT (R182) -/

theorem not_acceptsSend_of_fault {s : State} (hs : s.seq = .fault) : ¬ AcceptsSend s := fun ⟨_, ha, _⟩ => by
  simp [accepted, cmdReady_of_fault hs] at ha

theorem lineTrace_fault (n : Nat) {s : State} (hs : s.seq = .fault) (hr : NoReset n s) :
    lineTrace n s = List.replicate n false := by
  refine lineTrace_outside_tx n (by simp [hs]) fun j t hj ht => not_acceptsSend_of_fault ?_
  rw [runTicks_fault j hs fun i hi => hr i (by omega)] at ht
  exact Host.Outcome.next.inj ht ▸ hs

/-! ### The obligations -/

/-- Settles O48: a step enters FAULT by raising one of the causes, and the rest is read from the state it raises. -/
theorem faultEntry : Obligations.FaultEntry := by
  unfold Obligations.FaultEntry
  refine ⟨fun _ _ => rfl, by decide, fun s t h hs ht => ?_⟩
  obtain ⟨x, u, rfl, hdone, halloc, henc, hen⟩ := step_into_fault h hs ht
  exact ⟨code_sub_mem_table x, rfl, rfl, rfl, rfl, rfl, rfl, rfl, rfl, rfl, hdone, halloc, henc, hen,
    dout_low (by simp), cmdReady_of_fault ht, by rw [status_fault, faultFlag_iff, ht], status_faultCode _,
    status_faultSub _⟩

/-- Settles O49: without reset FAULT keeps its state and accepts nothing; with it the tick ends in RESET_STATE. -/
theorem onlyResetLeavesFault : Obligations.OnlyResetLeavesFault := by
  unfold Obligations.OnlyResetLeavesFault
  exact ⟨fun n s hs hr => ⟨runTicks_fault n hs hr, lineTrace_fault n hs hr⟩,
    fun s _ hr => ⟨_, step_of_rst hr, rfl, rfl⟩⟩

end Sys2Proof.Proofs
end

section
/-! PROOFS. Reset, from any state and held for any number of ticks (70_reset_and_hazards.md R200, R201). -/

namespace Sys2Proof.Proofs

open Sys2Proof Sys2Proof.Machine Sys2Proof.Laws

/-- A reset tick ends in RESET_STATE: of the state it is taken in only the parameters and the schedule are left. -/
theorem step_of_rst_eq_resetOf {s : State} (h : s.input.rst = true) :
    step s = .next (State.resetOf s.cfg s.inputs.tail (s.tick + 1)) := step_of_rst h

/-- Reset held for `n + 1` ticks ends where its last tick alone would. -/
theorem runTicks_of_rst (n : Nat) {s : State} (hr : ∀ j < n + 1, (s.inputAt j).rst = true) :
    runTicks (n + 1) s = .next (State.resetOf s.cfg (s.inputs.drop (n + 1)) (s.tick + (n + 1))) := by
  induction n generalizing s with
  | zero => rw [runTicks_succ (step_of_rst_eq_resetOf (hr 0 Nat.one_pos)), runTicks, List.drop_one]
  | succ n ih =>
    have hstep := step_of_rst_eq_resetOf (hr 0 (n + 1).succ_pos)
    have hnext : ∀ j < n + 1, ((State.resetOf s.cfg s.inputs.tail (s.tick + 1)).inputAt j).rst = true := fun j hj => by
      rw [step_inputAt hstep]
      exact hr (j + 1) (Nat.succ_lt_succ hj)
    have htick : s.tick + 1 + (n + 1) = s.tick + (n + 1 + 1) := by omega
    rw [runTicks_succ hstep, ih hnext]
    simp only [State.resetOf, List.drop_tail, htick]

/-- Settles O50: the run ends in RESET_STATE, whose line is low since no frame is on. -/
theorem resetOverridesEverything : Obligations.ResetOverridesEverything := by
  unfold Obligations.ResetOverridesEverything
  intro n s hn hr
  obtain ⟨n, rfl⟩ := Nat.exists_eq_add_of_le' hn
  exact ⟨_, runTicks_of_rst n hr, rfl, rfl, rfl, rfl, rfl, rfl, rfl, rfl, rfl, rfl, rfl, rfl, rfl, rfl, rfl, rfl, rfl,
    rfl, dout_low (by simp [State.resetOf]), rfl, status_resetOf _ _ _⟩

end Sys2Proof.Proofs
end

section
/-! PROOFS. Decoding and encoding undo each other, for both kinds of code (30_encoding.md sections 2 and 4). -/

namespace Sys2Proof.Proofs

open Sys2Proof Sys2Proof.Machine Sys2Proof.Laws

theorem decode_command_ok_iff {w : CmdWord} {i : Instr} :
    decode (.command w) = .ok i ↔ decodeCommand w = .instr i := by
  rw [decode]
  cases decodeCommand w with
  | instr j => simp
  | illegal sub => cases sub <;> simp

theorem decode_internal_ok_iff {c : Nibble} {i : Instr} :
    decode (.internal c) = .ok i ↔ decodeInternal c = some i := by
  rw [decode]
  cases decodeInternal c <;> simp

/-- The command port carries well-formed instructions only, each as its one word (R78, R79). -/
theorem encode_of_decodeCommand {w : CmdWord} {i : Instr} (h : decodeCommand w = .instr i) :
    encode i = .command w ∧ i.wellFormed = true := by
  rcases decodeCommand_cases h with rfl | ⟨r, g, b, rfl⟩
  · have hw := (init_fields_iff w).mp ((decodeCommand_init_iff w).mp h)
    exact ⟨hw ▸ rfl, rfl⟩
  · exact ⟨word_of_decodeCommand_send h ▸ rfl, rfl⟩

/-- Each of the seven assigned codes is the code of its operation (R88). -/
theorem encode_of_decodeInternal {c : Nibble} {i : Instr} (h : decodeInternal c = some i) :
    encode i = .internal c ∧ i.wellFormed = true := by
  unfold decodeInternal at h
  split_ifs at h with h1 h2 h3 h4 h5 h6 h7 <;> obtain rfl := Option.some.inj h <;> subst c <;> exact ⟨rfl, rfl⟩

/-! ### The obligations -/

/-- Settles O5: one round trip for each instruction. -/
theorem encodeThenDecodeIsIdentity : Obligations.EncodeThenDecodeIsIdentity := by
  unfold Obligations.EncodeThenDecodeIsIdentity
  intro i
  cases i with
  | init => exact RoundTrip.init
  | send r g b => exact RoundTrip.send r g b
  | encode => exact RoundTrip.encode
  | configure => exact RoundTrip.configure
  | createCopyEncoder => exact RoundTrip.createCopyEncoder
  | enable => exact RoundTrip.enable
  | transmit n => exact RoundTrip.transmit n
  | waitComplete => exact RoundTrip.waitComplete
  | holdLow => exact RoundTrip.holdLow

/-- Settles O6: the fields of a word that decodes are those that the encoder writes, and so is an assigned code. -/
theorem decodeThenEncodeIsIdentity : Obligations.DecodeThenEncodeIsIdentity := by
  unfold Obligations.DecodeThenEncodeIsIdentity
  intro code i h
  cases code with
  | command w => exact encode_of_decodeCommand (decode_command_ok_iff.mp h)
  | internal c => exact encode_of_decodeInternal (decode_internal_ok_iff.mp h)

/-- Settles O1: the words and codes are closed terms, and the decoder computes each of them. -/
theorem specWordsDecode : Obligations.SpecWordsDecode := by
  unfold Obligations.SpecWordsDecode
  decide

end Sys2Proof.Proofs
end

section
/-! PROOFS. What each instruction does, case by case: ENCODE, the configuration operations, the two commands,
TRANSMIT, WAIT_COMPLETE and HOLD_LOW (41_transmitter.md, 42_peripheral.md). -/

namespace Sys2Proof.Proofs

open Sys2Proof Sys2Proof.Machine Sys2Proof.Laws

/-! ### The commands where the BLOCK is not ready (10_state.md R22) -/

theorem exec_init_busy {s : State} (h : cmdReady s = false) : exec .init s = .next s := by
  cases hs : s.seq <;> simp [cmdReady, exec, execInit, hs] at h ⊢

theorem exec_send_busy {s : State} (h : cmdReady s = false) (r g b : Channel) : exec (.send r g b) s = .next s := by
  cases hs : s.seq <;> simp [cmdReady, exec, execSend, hs] at h ⊢

/-! ### TRANSMIT (42_peripheral.md R145, R146) -/

theorem exec_transmit_full {s : State} (h : s.cfg.queueDepth ≤ s.qCount) :
    exec (.transmit 1) s = .refused .queueFull := by
  simp [exec, execTransmit, h]

theorem exec_transmit_rejected {s : State} (hq : s.qCount < s.cfg.queueDepth) (hx : s.input.txOk = false) :
    exec (.transmit 1) s = .next (raise .submitRejected s) := by
  simp [exec, execTransmit, Nat.not_le_of_lt hq, hx]

theorem exec_transmit_accepted {s : State} (hq : s.qCount < s.cfg.queueDepth) (hx : s.input.txOk = true) :
    exec (.transmit 1) s = .next (submit s) := by
  simp [exec, execTransmit, Nat.not_le_of_lt hq, hx]

theorem submit_started {s : State} (h : s.cfg.startLatencyTicks = 0) :
    submit s = beginFrame { s with qCount := s.qCount + 1 } :=
  if_pos h

theorem submit_delayed {s : State} (h : 0 < s.cfg.startLatencyTicks) :
    submit s =
      { s with qCount := s.qCount + 1, genState := .gStart, genStartCnt := s.cfg.startLatencyTicks } :=
  if_neg h.ne'

/-! ### SEND in IDLE (41_transmitter.md R127) -/

/-- Once the colour is latched and its frame written, TRANSMIT alone decides. -/
theorem exec_send_eq_transmit {s : State} (hs : s.seq = .idle) (hcap : 24 ≤ s.cfg.symbolCapacity) (r g b : Channel) :
    exec (.send r g b) s =
      Result.andThen (exec (.transmit 1) (encodedState r g b s)) fun s =>
        .next { s with waitCnt := 0, seq := .tx } := by
  have hencode : execEncode { s with color := colourOf r g b } = .next (encodedState r g b s) :=
    exec_encode (s := { s with color := colourOf r g b }) hcap
  have hsend : exec (.send r g b) s = sendAccept r g b s := by simp [exec, execSend, hs]
  rw [hsend, sendAccept, hencode, andThen_next (by simp [hs])]
  rfl

theorem exec_send_rejected {s : State} (hs : s.seq = .idle) (hcap : 24 ≤ s.cfg.symbolCapacity)
    (hq : s.qCount < s.cfg.queueDepth) (hx : s.input.txOk = false) (r g b : Channel) :
    exec (.send r g b) s = .next (raise .submitRejected (encodedState r g b s)) := by
  rw [exec_send_eq_transmit hs hcap, exec_transmit_rejected (s := encodedState r g b s) hq hx, andThen_raised rfl]

theorem wireWord_colourOf (r g b : Channel) : wireWord (colourOf r g b) = g ++ r ++ b := by
  obtain ⟨hr, hg, hb⟩ := channels_append r g b
  rw [wireWord, greenOf, redOf, blueOf, colourOf, hr, hg, hb]

/-- What a SEND leaves in the 24 entries of its frame. -/
theorem symbolAt_written (r g b : Channel) (s : State) {p : Nat} (hp : p < 24) :
    ({ s with sym := writeFrame (colourOf r g b) s.sym } : State).symbolAt p =
      symbolOf ((g ++ r ++ b).getLsbD (23 - p)) := by
  rw [symbolAt_writeFrame, if_pos hp, frameSymbol, wireWord_colourOf]

/-- It leaves every other entry as it was. -/
theorem symbolAt_unwritten (r g b : Channel) (s : State) {p : Nat} (hp : 24 ≤ p) :
    ({ s with sym := writeFrame (colourOf r g b) s.sym } : State).symbolAt p = s.symbolAt p := by
  rw [symbolAt_writeFrame, if_neg (Nat.not_lt_of_le hp)]

/-! ### WAIT_COMPLETE (R152) -/

theorem exec_waitComplete_waitErr {s : State} (h : s.input.waitErr = true) :
    exec .waitComplete s = .next (raise .waitFailed s) :=
  if_pos h

theorem exec_waitComplete_timedOut {s : State} (he : s.input.waitErr = false) (ht : timedOut s = true) :
    exec .waitComplete s = .next (raise .timeout s) := by
  simp [exec, execWaitComplete, he, ht]

/-- A start tick without a failure. -/
theorem exec_waitComplete_start {s : State} (he : s.input.waitErr = false) (ht : timedOut s = false)
    (hg : s.genState = .gStart) :
    exec .waitComplete s = .next (startTick { s with waitCnt := s.waitCnt + 1 }) := by
  simp [exec_waitComplete_noFailure he ht, genAdvance, hg]

/-- A tick of a record without a failure. -/
theorem exec_waitComplete_run {s : State} {e : Symbol} (he : s.input.waitErr = false) (ht : timedOut s = false)
    (hg : s.genState = .gRun) (hc : 24 ≤ s.cfg.symbolCapacity) (hi : s.symIdx.toNat < 24)
    (hsym : s.symbolAt s.symIdx.toNat = e) (hl : e.legal = true) :
    exec .waitComplete s = .next (runTick e { s with waitCnt := s.waitCnt + 1 }) := by
  subst e
  rw [exec_waitComplete_noFailure he ht]
  exact genAdvance_run (s := { s with waitCnt := s.waitCnt + 1 }) hg hc hi hl

/-! ### The obligations -/

/-- Settles O22: the colour and its frame, then TRANSMIT's start. -/
theorem sendAcceptedInIdle : Obligations.SendAcceptedInIdle := by
  unfold Obligations.SendAcceptedInIdle
  intro r g b s hs hcap hq hx
  refine ⟨writeFrame (colourOf r g b) s.sym, fun p hp => symbolAt_written r g b s hp,
    fun p hp => symbolAt_unwritten r g b s hp, fun hl => ?_, fun hl => ?_⟩
  · rw [exec_send_idle hs hcap hq hx, sentState, submit_started (s := encodedState r g b s) hl]
    simp only [beginFrame, colourOf]
  · rw [exec_send_idle hs hcap hq hx, sentState, submit_delayed (s := encodedState r g b s) hl]
    simp only [colourOf]

/-- Settles O23: TRANSMIT's fault keeps what was latched and written before it. -/
theorem rejectedSendKeepsColourAndFrame : Obligations.RejectedSendKeepsColourAndFrame := by
  unfold Obligations.RejectedSendKeepsColourAndFrame
  intro r g b s hs hcap hq hx
  exact ⟨writeFrame (colourOf r g b) s.sym, fun p hp => symbolAt_written r g b s hp,
    fun p hp => symbolAt_unwritten r g b s hp, exec_send_rejected hs hcap hq hx r g b, dout_low (by simp [hs]),
    dout_low (by simp)⟩

/-- Settles O10: the frame does not fit. -/
theorem encodeStopsBelowCapacity : Obligations.EncodeStopsBelowCapacity := by
  unfold Obligations.EncodeStopsBelowCapacity
  intro s hcap
  have hfit : frameFits s.cfg = false := decide_eq_false (Nat.not_le_of_lt hcap)
  simp [exec, execEncode, hfit]

/-- Settles O16: legality is tested before the draw. -/
theorem configureAllocatesTheChannel : Obligations.ConfigureAllocatesTheChannel := by
  unfold Obligations.ConfigureAllocatesTheChannel
  intro s
  refine ⟨fun hp hx => execConfigure_ok hp hx, fun hp => if_pos hp, fun hp hx => ?_⟩
  simp [exec, execConfigure, hp, hx]

/-- Settles O17: each operation tests its own draw. -/
theorem copyEncoderAndEnableSetTheirHandles : Obligations.CopyEncoderAndEnableSetTheirHandles := by
  unfold Obligations.CopyEncoderAndEnableSetTheirHandles
  exact fun s => ⟨execCreateCopyEncoder_ok, fun hx => if_pos hx, execEnable_ok, fun hx => if_pos hx⟩

/-- Settles O18: INIT's acceptance is its meaning in UNINIT. -/
theorem initAcceptedInUninit : Obligations.InitAcceptedInUninit := by
  unfold Obligations.InitAcceptedInUninit
  exact fun s hs => exec_init_uninit hs

/-- Settles O25: by the four states that are not ready. -/
theorem commandsHaveNoEffectWhileBusy : Obligations.CommandsHaveNoEffectWhileBusy := by
  unfold Obligations.CommandsHaveNoEffectWhileBusy
  exact fun r g b s h => ⟨exec_init_busy h, exec_send_busy h r g b⟩

/-- Settles O26: with room in the queue the draw decides, and then the start latency. -/
theorem transmitStartsTheGenerator : Obligations.TransmitStartsTheGenerator := by
  unfold Obligations.TransmitStartsTheGenerator
  intro s hq
  refine ⟨fun hx hl => ?_, fun hx hl => ?_, exec_transmit_rejected hq⟩
  · rw [exec_transmit_accepted hq hx, submit_started hl]
    rfl
  · rw [exec_transmit_accepted hq hx, submit_delayed hl]

/-- Settles O29: the two ticks of the start latency and the three within the frame. -/
theorem waitCompleteAdvancesTheGenerator : Obligations.WaitCompleteAdvancesTheGenerator := by
  unfold Obligations.WaitCompleteAdvancesTheGenerator
  intro s he ht
  refine ⟨fun hg hc => ?_, fun hg hc => ?_, fun e hg hcap hi hsym hl => ?_⟩
  · rw [exec_waitComplete_start he ht hg, startTick, if_pos hc]
  · rw [exec_waitComplete_start he ht hg, startTick, if_neg (Nat.not_lt_of_le hc)]
    rfl
  · rw [exec_waitComplete_run he ht hg hcap hi hsym hl, runTick]
    refine ⟨fun hlt => ?_, fun hle hh => ?_, fun hle hh hidx => ?_⟩
    · rw [if_pos hlt]
    · rw [if_neg (Nat.not_lt_of_le hle), if_pos hh]
    · rw [if_neg (Nat.not_lt_of_le hle), if_neg (by simp [hh]), if_pos hidx]

/-- Settles O31: the wait error is tested first, then the window. -/
theorem waitErrorThenTimeout : Obligations.WaitErrorThenTimeout := by
  unfold Obligations.WaitErrorThenTimeout
  refine fun s => ⟨exec_waitComplete_waitErr, fun T he hT hle => ?_, fun hT => ?_⟩
  · exact exec_waitComplete_timedOut he (by simpa [timedOut, hT] using hle)
  · simp [timedOut, hT]

/-- Settles O32: by the test of the count. -/
theorem holdLowCountsDown : Obligations.HoldLowCountsDown := by
  unfold Obligations.HoldLowCountsDown
  exact fun s => ⟨fun hc => if_pos hc, fun hc => if_neg (Nat.not_lt_of_le hc)⟩

end Sys2Proof.Proofs
end

section
/-! PROOFS. What a step runs: the decoded command, the internal operation of the tick, and what the eager host
presents (41_transmitter.md R121, R124, R136). -/

namespace Sys2Proof.Proofs

open Sys2Proof Sys2Proof.Machine Sys2Proof.Laws

theorem step_accepted {s : State} {i : Instr} (hr : s.input.rst = false) (ha : accepted s = true)
    (hd : decodeCommand s.input.cmdWord = .instr i) : step s = Result.mapNext endTick (exec i s) := by
  obtain ⟨hv, hready⟩ := (accepted_iff s).mp ha
  exact step_command ((cmdReady_iff s).mp hready) hr hv hd

theorem step_unaccepted {s : State} (hr : s.input.rst = false) (ha : accepted s = false)
    (hs : s.seq = .uninit ∨ s.seq = .idle) : step s = .next (endTick s) := by
  have hready : sequencerTick s = readyTick s := by
    rcases hs with hs | hs <;> simp [sequencerTick, hs]
  rw [step_of_noRst hr, hready, readyTick_unaccepted ha, mapNext_next]

theorem step_tx_exec {s : State} (hs : s.seq = .tx) (hr : s.input.rst = false) :
    step s = Result.mapNext endTick (exec .waitComplete s) := by
  simp [step_of_noRst hr, sequencerTick, hs]

theorem step_hold_exec {s : State} (hs : s.seq = .hold) (hr : s.input.rst = false) :
    step s = Result.mapNext endTick (exec .holdLow s) := by
  simp [step_of_noRst hr, sequencerTick, hs]

theorem andThen_assoc (r : Result) (f g : State → Result) :
    Result.andThen (Result.andThen r f) g = Result.andThen r fun s => Result.andThen (f s) g := by
  cases r with
  | next s =>
    by_cases hs : s.seq = .fault
    · rw [andThen_raised hs, andThen_raised hs, andThen_raised hs]
    · rw [andThen_next hs, andThen_next hs]
  | fault x => rfl
  | refused x => rfl

/-- An operation followed by nothing is the operation. -/
theorem andThen_nextState (r : Result) : Result.andThen r (fun s => .next s) = r := by
  cases r with
  | next s => exact ite_self _
  | fault x => rfl
  | refused x => rfl

/-- INIT_COMPLETE is the three operations in a row, and then the end of INIT (R124). -/
theorem initComplete_chain (s : State) :
    initComplete s =
      Result.andThen (exec .configure s) fun s =>
        Result.andThen (exec .createCopyEncoder s) fun s =>
          Result.andThen (exec .enable s) fun s => .next (initDoneState s) := by
  simp only [initComplete_eq, andThen_nextState, andThen_assoc]
  rfl

theorem runEnded_iff (d : Driven) :
    runEnded d = true ↔
      d.commands = [] ∧ (d.block.seq = .uninit ∨ d.block.seq = .idle ∨ d.block.seq = .fault) := by
  simp [runEnded, or_assoc]

/-! ### The obligations -/

/-- Settles O41: an accepted command finds the BLOCK ready. -/
theorem stepRunsTheDecodedCommand : Obligations.StepRunsTheDecodedCommand := by
  unfold Obligations.StepRunsTheDecodedCommand
  exact fun s i hr ha hd => step_accepted hr ha (decode_command_ok_iff.mp hd)

/-- Settles O42: by the state of the sequencer. -/
theorem stepRunsTheInternalOperations : Obligations.StepRunsTheInternalOperations := by
  unfold Obligations.StepRunsTheInternalOperations
  intro s hr
  refine ⟨fun hs => step_tx_exec hs hr, fun hs => step_hold_exec hs hr, fun hs hc => ?_, fun hs hc => ?_,
    fun ha hs => step_unaccepted hr ha hs⟩
  · rw [step_initBusy hs hr, initBusyTick, if_pos hc, mapNext_next]
  · rw [step_initBusy hs hr, initBusyTick_last hc, initComplete_chain]
    rfl

/-- Settles O47: the host's tick drops the command exactly where the BLOCK is ready. -/
theorem eagerHostKeepsItsCommandUntilAccepted : Obligations.EagerHostKeepsItsCommandUntilAccepted := by
  unfold Obligations.EagerHostKeepsItsCommandUntilAccepted
  refine ⟨fun d d' h hr => ?_, runEnded_iff⟩
  rw [hostTick_commands h, hr]
  exact ⟨fun hready => by simp [hready], fun hready => by simp [hready]⟩

end Sys2Proof.Proofs
end

section
/-! PROOFS. From the invariant no step stops the model, and every step keeps it (10_state.md section 5,
41_transmitter.md section 1). -/

namespace Sys2Proof.Proofs

open Sys2Proof Sys2Proof.Machine Sys2Proof.Laws

/-- Once INIT has completed the parameters are known to be legal. -/
theorem paramsLegal_of_initDone {s : State} (h : StateInv s) (hd : s.initDone = true) : paramsLegal s.cfg = true :=
  h.configured (h.handles_encoder (h.handles_enable (h.handles_all hd)))

/-- In IDLE the queue is empty, and a legal configuration has room for one. -/
theorem queue_room_of_idle {s : State} (h : StateInv s) (hs : s.seq = .idle) : s.qCount < s.cfg.queueDepth :=
  h.queue_empty (by simp [hs]) ▸ (room_of_paramsLegal (paramsLegal_of_idle h hs)).2

/-- In TX the generator finds a record of the frame. -/
theorem genAdvance_next {s : State} (h : StateInv s) (hs : s.seq = .tx) : ∃ t, genAdvance s = .next t := by
  cases hg : s.genState with
  | gIdle => exact ⟨s, by simp [genAdvance, hg]⟩
  | gStart => exact ⟨startTick s, by simp [genAdvance, hg]⟩
  | gRun =>
    have hcap := (room_of_paramsLegal (paramsLegal_of_initDone h (h.initialized (.inr (.inl hs))))).1
    have hidx : s.symIdx.toNat < FRAME_SYMBOLS := Nat.lt_succ_of_le (h.position_run hg).1
    have hsym := symbolAt_holdsFrame (h.frame_sent (.inl hs)) hidx
    exact ⟨_, genAdvance_run hg hcap hidx (hsym ▸ frameSymbol_legal s.color s.symIdx.toNat)⟩

theorem exec_waitComplete_next {s : State} (h : StateInv s) (hs : s.seq = .tx) :
    ∃ t, exec .waitComplete s = .next t := by
  cases he : s.input.waitErr with
  | true => exact ⟨_, exec_waitComplete_waitErr he⟩
  | false =>
    cases ht : timedOut s with
    | true => exact ⟨_, exec_waitComplete_timedOut he ht⟩
    | false =>
      rw [exec_waitComplete_noFailure he ht]
      exact genAdvance_next (stateInv_waitCount h hs) hs

theorem exec_send_next {s : State} (h : StateInv s) (hready : cmdReady s = true) (r g b : Channel) :
    ∃ t, exec (.send r g b) s = .next t := by
  rcases (cmdReady_iff s).mp hready with hs | hs
  · exact ⟨_, exec_send_uninit hs r g b⟩
  · have hcap := (room_of_paramsLegal (paramsLegal_of_idle h hs)).1
    have hroom := queue_room_of_idle h hs
    cases hx : s.input.txOk with
    | true => exact ⟨_, exec_send_idle hs hcap hroom hx r g b⟩
    | false => exact ⟨_, exec_send_rejected hs hcap hroom hx r g b⟩

/-- A tick that ends in a state is a step that ends in one. -/
theorem step_next_of_exec {s : State} {i : Instr} (hstep : step s = Result.mapNext endTick (exec i s))
    (h : ∃ t, exec i s = .next t) : ∃ t, step s = .next t := by
  obtain ⟨t, ht⟩ := h
  exact ⟨endTick t, by rw [hstep, ht, mapNext_next]⟩

theorem step_next {s : State} (h : StateInv s) : ∃ t, step s = .next t := by
  cases hr : s.input.rst with
  | true => exact ⟨_, step_of_rst hr⟩
  | false =>
    by_cases hs : s.seq = .tx
    · exact step_next_of_exec (step_tx_exec hs hr) (exec_waitComplete_next h hs)
    by_cases ha : AcceptsSend s
    · obtain ⟨_, hacc, r, g, b, hd⟩ := ha
      exact step_next_of_exec (step_accepted hr hacc hd) (exec_send_next h ((accepted_iff s).mp hacc).2 r g b)
    · obtain ⟨t, ht, _⟩ := step_outside_tx hs ha
      exact ⟨t, ht⟩

/-! ### The obligations -/

/-- Settles O52: a reset tick ends in RESET_STATE, and each case of the sequencer's tick keeps the invariant. -/
theorem everyStepKeepsTheInvariant : Obligations.EveryStepKeepsTheInvariant := by
  unfold Obligations.EveryStepKeepsTheInvariant
  exact fun _ _ h ht => stateInv_step h ht

/-- Settles O51: nothing is written, counted or recorded after reset. -/
theorem resetMeetsTheInvariant : Obligations.ResetMeetsTheInvariant := by
  unfold Obligations.ResetMeetsTheInvariant
  exact stateInv_resetOf

/-- Settles O54: in TX the generator runs a record of the frame, and a SEND finds room for its frame. -/
theorem noStopFromTheInvariant : Obligations.NoStopFromTheInvariant := by
  unfold Obligations.NoStopFromTheInvariant
  exact fun _ h => step_next h

/-- Settles O27: the queue is tested before the draw, and it is empty in IDLE. -/
theorem transmitRefusesAFullQueue : Obligations.TransmitRefusesAFullQueue := by
  unfold Obligations.TransmitRefusesAFullQueue
  exact ⟨fun _ hq => exec_transmit_full hq, fun _ h hs => queue_room_of_idle h hs⟩

end Sys2Proof.Proofs
end

section
/-! PROOFS. What a step leaves: the parameters, the handles, the colour and SYM (10_state.md R44,
20_memory.md R53). -/

namespace Sys2Proof.Proofs

open Sys2Proof Sys2Proof.Machine Sys2Proof.Laws

/-- From `s` to `t` the parameters stay and no handle bit is lost. -/
structure KeepsHandles (s t : State) : Prop where
  cfg : t.cfg = s.cfg
  chanAlloc : s.chanAlloc = true → t.chanAlloc = true
  copyEnc : s.copyEnc = true → t.copyEnc = true
  chanEn : s.chanEn = true → t.chanEn = true

/-- From `s` to `t` the colour and the content of SYM stay. -/
structure KeepsFrame (s t : State) : Prop where
  color : t.color = s.color
  sym : t.sym = s.sym
  symReset : t.symReset = s.symReset

theorem KeepsFrame.symbolAt {s t : State} (h : KeepsFrame s t) (p : Nat) : t.symbolAt p = s.symbolAt p := by
  rw [symbolAt_eq, symbolAt_eq, h.sym, h.symReset]

/-- A fault keeps the colour and SYM as they are (60_exceptions.md R179). -/
theorem raise_keepsFrame (x : Cause) (s : State) : KeepsFrame s (raise x s) := ⟨rfl, rfl, rfl⟩

/-- The generator moves its own position and counters, and at the end of the frame the sequencer and the queue. -/
theorem genAdvance_keeps {s t : State} (h : genAdvance s = .next t) : KeepsHandles s t ∧ KeepsFrame s t := by
  rcases genAdvance_cases h with ⟨_, rfl⟩ | ⟨_, rfl⟩ | ⟨_, _, _, _, rfl⟩
  · exact ⟨⟨rfl, id, id, id⟩, rfl, rfl, rfl⟩
  · rcases startTick_cases s with ⟨_, hu⟩ | ⟨_, hu⟩ <;> rw [hu] <;> exact ⟨⟨rfl, id, id, id⟩, rfl, rfl, rfl⟩
  · rcases runTick_cases (s.symbolAt s.symIdx.toNat) s with ⟨_, hu⟩ | ⟨_, _, hu⟩ | ⟨_, _, _, hu⟩ | ⟨_, _, _, hu⟩ <;>
      rw [hu] <;> exact ⟨⟨rfl, id, id, id⟩, rfl, rfl, rfl⟩

/-- TRANSMIT's start touches the queue and the generator alone. -/
theorem submit_keeps (s : State) : KeepsHandles s (submit s) ∧ KeepsFrame s (submit s) := by
  rcases submit_cases s with ⟨_, hu⟩ | ⟨_, hu⟩ <;> rw [hu] <;> exact ⟨⟨rfl, id, id, id⟩, rfl, rfl, rfl⟩

theorem tickCase_keepsHandles {s t : State} (h : TickCase s t) : KeepsHandles s t := by
  cases h
  case generator hg => exact { (genAdvance_keeps hg).1 with }
  case sendAccepted r g b _ _ _ _ _ _ => exact { (submit_keeps (encodedState r g b s)).1 with }
  case encoderUnavailable => exact ⟨rfl, fun _ => rfl, id, id⟩
  case enableFailed => exact ⟨rfl, fun _ => rfl, fun _ => rfl, id⟩
  case initCompleted => exact ⟨rfl, fun _ => rfl, fun _ => rfl, fun _ => rfl⟩
  all_goals exact ⟨rfl, id, id, id⟩

/-- A tick without reset keeps the colour and SYM, or it accepts a SEND in IDLE and keeps what that has written. -/
theorem tickCase_frame {s t : State} (h : TickCase s t) :
    KeepsFrame s t ∨
      ∃ r g b, s.seq = .idle ∧ accepted s = true ∧ decodeCommand s.input.cmdWord = .instr (.send r g b) ∧
        KeepsFrame (encodedState r g b s) t := by
  cases h
  case sendAccepted r g b hs ha hd _ _ _ =>
    exact .inr ⟨r, g, b, hs, ha, hd, { (submit_keeps (encodedState r g b s)).2 with }⟩
  case sendRejected r g b hs ha hd _ _ _ => exact .inr ⟨r, g, b, hs, ha, hd, raise_keepsFrame _ _⟩
  case generator hg => exact .inl { (genAdvance_keeps hg).2 with }
  all_goals exact .inl ⟨rfl, rfl, rfl⟩

/-! ### The obligations -/

/-- Settles O56: by the cases of a tick. -/
theorem onlySendWritesColourAndSymbols : Obligations.OnlySendWritesColourAndSymbols := by
  unfold Obligations.OnlySendWritesColourAndSymbols
  intro s t h hr
  rcases step_cases h with ⟨hr', _⟩ | ⟨_, u, hu, rfl⟩
  · simp [hr] at hr'
  rcases tickCase_frame hu with hkeep | ⟨r, g, b, hs, ha, hd, hkeep⟩
  · exact .inl ⟨hkeep.color, hkeep.sym, hkeep.symbolAt⟩
  · exact .inr ⟨r, g, b, hs, ha, hd, hkeep.color, fun p hp => (hkeep.symbolAt p).trans (symbolAt_written r g b s hp),
      fun p hp => (hkeep.symbolAt p).trans (symbolAt_unwritten r g b s hp)⟩

/-- Settles O57: by the cases of a tick. -/
theorem parametersAndHandlesStay : Obligations.ParametersAndHandlesStay := by
  unfold Obligations.ParametersAndHandlesStay
  intro s t h
  rcases step_cases h with ⟨hr, rfl⟩ | ⟨_, u, hu, rfl⟩
  · exact ⟨rfl, fun hr' => by simp [hr] at hr'⟩
  · obtain ⟨hcfg, halloc, henc, hen⟩ := tickCase_keepsHandles hu
    exact ⟨hcfg, fun _ => ⟨halloc, henc, hen⟩⟩

end Sys2Proof.Proofs
end

section
/-! PROOFS. The waveform of a frame written out, and the hold tick by tick (40_encoder.md R107,
42_peripheral.md R155). -/

namespace Sys2Proof.Proofs

open Sys2Proof Sys2Proof.Machine Sys2Proof.Laws

/-- The line of one record, tick by tick. -/
theorem expandRuns_symbolOf (b : Bool) :
    expandRuns (symbolRuns (symbolOf b)) =
      if b then List.replicate 7 true ++ List.replicate 6 false
      else List.replicate 4 true ++ List.replicate 8 false := by
  cases b <;> rfl

/-- Counting the 1 bits from the top is counting them from the bottom. -/
theorem popcount_wireWord (c : Colour) :
    popcount (wireWord c) = popcount (greenOf c) + popcount (redOf c) + popcount (blueOf c) := by
  have hreverse : (List.range 24).reverse = (List.range 24).map (23 - ·) := by decide
  rw [← countP_wireWord, popcount, ← List.countP_reverse, hreverse, List.countP_map]
  rfl

theorem frameTicks_eq (c : Colour) : frameTicks c = 288 + popcount (wireWord c) := by
  rw [popcount_wireWord, frameTicks]
  omega

/-- The first `j` ticks of a hold, none of them its last. -/
theorem course_holdCount {good : TickInput → Prop} (hrst : ∀ x, good x → x.rst = false) {s : State}
    (hs : s.seq = .hold) {j : Nat} (hj : j < s.holdCnt) :
    Course good (List.replicate j (holdView s.genState)) s { s with holdCnt := s.holdCnt - j } :=
  course_replicate (f := fun j => { s with holdCnt := s.holdCnt - j }) j
    (fun i hi => ticksTo_holdCount (s := { s with holdCnt := s.holdCnt - i }) hrst hs (by simp only; omega))
    fun _ _ => by simp [viewOf, hs, dout_low]

/-! ### The obligations -/

/-- Settles O14: by the two records, and by the 1 bits of the wire word. -/
theorem frameWaveformAndLength : Obligations.FrameWaveformAndLength := by
  unfold Obligations.FrameWaveformAndLength
  intro c
  refine ⟨?_, (length_wave c).trans (frameTicks_eq c), frameTicks_eq c, frameTicks_bounds c⟩
  simp only [wave_eq, expandRuns_symbolOf]

/-- Settles O33: the count runs down in any ticks without reset, and the tick that finds it at 1 is the last. -/
theorem holdLastsExactlyItsTicks : Obligations.HoldLastsExactlyItsTicks := by
  unfold Obligations.HoldLastsExactlyItsTicks
  intro n s hs hn hpos hr
  refine ⟨fun k hk => ?_, ?_⟩
  · have hcourse := course_holdCount (good := (·.rst = false)) (fun _ hx => hx) hs (hn ▸ hk)
    obtain ⟨hends, _⟩ := (hcourse.observed (xs := s.inputs) (n := s.tick)
      fun j hj => hr j (by rw [List.length_replicate] at hj; omega)).of_length List.length_replicate
    exact ⟨_, hends, hs, hn ▸ rfl, dout_low (by simp [onSchedule, hs]), by simp [cmdReady, onSchedule, hs]⟩
  · obtain ⟨m, rfl⟩ := Nat.exists_eq_add_of_le' hpos
    have hcourse := course_hold (good := (·.rst = false)) (fun _ hx => hx) hs hn
    obtain ⟨hends, _⟩ := (hcourse.observed (xs := s.inputs) (n := s.tick)
      fun j hj => hr j (by rwa [List.length_replicate] at hj)).of_length List.length_replicate
    exact ⟨_, hends, rfl, rfl, dout_low (by simp [onSchedule]), rfl⟩

end Sys2Proof.Proofs
end

section
/-! PROOFS. The reference receiver: it reads a pulse as its bit, a frame as its 24 bits, and a low run of 500 ticks
as the end of the frame (41_transmitter.md R138, R139). -/

namespace Sys2Proof.Proofs

open Sys2Proof Sys2Proof.Machine Sys2Proof.Laws

/-! ### One tick, one run -/

theorem watch_append (x : Receiver) (l l' : List Level) : x.watch (l ++ l') = (x.watch l).watch l' :=
  List.foldl_append

theorem watch_high (x : Receiver) (n : Nat) :
    x.watch (List.replicate (n + 1) true) = { x with highrun := x.highrun + (n + 1), lowrun := 0 } := by
  induction n with
  | zero => rfl
  | succ n ih =>
    rw [List.replicate_succ', watch_append, ih]
    rfl

/-- A low run that is in progress goes on by its low ticks. -/
theorem watch_low_succ {x : Receiver} (h : x.highrun = 0) (n : Nat) :
    x.watch (List.replicate (n + 1) false) = x.lowTick.watch (List.replicate n false) := by
  have htick : x.tick false = x.lowTick := by simp [Receiver.tick, h]
  rw [List.replicate_succ, Receiver.watch, List.foldl_cons, htick]
  rfl

/-- A tick that does not latch only counts: the run stays short, or there is nothing to latch. -/
theorem lowTick_counts {x : Receiver} (h : x.lowrun + 1 < 500 ∨ x.bits = []) :
    x.lowTick = { x with lowrun := x.lowrun + 1 } := by
  rw [Receiver.lowTick]
  split
  · next hfloor =>
    have hbits : x.bits = [] := h.resolve_left (by simp only [LATCH_FLOOR_TICKS] at hfloor; omega)
    simp [hbits]
  · rfl

theorem watch_low_counts {x : Receiver} (h : x.highrun = 0) {n : Nat} (hn : x.lowrun + n < 500 ∨ x.bits = []) :
    x.watch (List.replicate n false) = { x with lowrun := x.lowrun + n } := by
  induction n with
  | zero => rfl
  | succ n ih =>
    have hlast := watch_low_succ (x := { x with lowrun := x.lowrun + n }) h 0
    rw [List.replicate_succ', watch_append, ih (hn.imp_left (by omega))]
    exact hlast.trans (lowTick_counts (hn.imp_left id))

/-- The tick in which the low run reaches 500 latches a frame of 24 bits. -/
theorem lowTick_latches {x : Receiver} (hl : x.lowrun + 1 = 500) (hb : x.bits.length = 24) :
    x.lowTick = { x with bits := [], latched := some (colourOfWire (wordOfBits x.bits)), lowrun := 500 } := by
  rw [Receiver.lowTick, if_pos hl]
  split
  · next hnil => simp [hnil] at hb
  · next b bs hbits => rw [if_pos (hbits ▸ hb), hl, hbits]

/-- What 24 bits have become when the low run has lasted for 500 ticks or more. -/
theorem watch_low_latches {x : Receiver} (h : x.highrun = 0) (hb : x.bits.length = 24) (hl : x.lowrun < 500) {n : Nat}
    (hn : 500 ≤ x.lowrun + n) :
    x.watch (List.replicate n false) =
      { x with bits := [], latched := some (colourOfWire (wordOfBits x.bits)), lowrun := x.lowrun + n } := by
  obtain ⟨k, hk⟩ := Nat.exists_eq_add_of_lt hl
  obtain ⟨m, rfl⟩ : ∃ m, n = k + (m + 1) := ⟨n - k - 1, by omega⟩
  rw [← List.replicate_append_replicate, watch_append, watch_low_counts h (.inl (by omega)),
    watch_low_succ (x := { x with lowrun := x.lowrun + k }) h,
    lowTick_latches (x := { x with lowrun := x.lowrun + k }) hk.symm hb,
    watch_low_counts (by exact h) (.inr rfl)]
  simp only [hk]
  congr 1
  omega

/-! ### Pulses -/

/-- A high run of a bit's length and a shorter low run after it add the bit. -/
theorem watch_pulse {x : Receiver} (h : x.highrun = 0) (hb : x.bits.length < 24) {bit : Bool} {high low : Nat}
    (hbit : runBit (high + 1) = some bit) (hlow : low + 1 < 500) :
    x.watch (List.replicate (high + 1) true ++ List.replicate (low + 1) false) =
      { x with bits := x.bits ++ [bit], lowrun := low + 1 } := by
  have hfall : ({ x with highrun := high + 1, lowrun := 0 } : Receiver).tick false =
      { x with bits := x.bits ++ [bit], lowrun := 1, highrun := 0 } := by
    simp [Receiver.tick, Receiver.endHighRun, hbit, hb, Receiver.lowTick]
  have hrest := watch_low_counts (x := { x with bits := x.bits ++ [bit], lowrun := 1, highrun := 0 }) rfl (n := low)
    (.inl (by simp only; omega))
  rw [watch_append, watch_high, h, Nat.zero_add, List.replicate_succ, Receiver.watch, List.foldl_cons, hfall]
  rw [Receiver.watch] at hrest
  rw [hrest]
  simp only [Nat.add_comm]

/-- How long the line is low after a bit. -/
def lowTicks (b : Bool) : Nat := if b then 6 else 8

theorem watch_record {x : Receiver} (h : x.highrun = 0) (hb : x.bits.length < 24) (b : Bool) :
    x.watch (expandRuns (symbolRuns (symbolOf b))) = { x with bits := x.bits ++ [b], lowrun := lowTicks b } := by
  rw [expandRuns_symbolOf]
  cases b with
  | true => exact watch_pulse h hb rfl (by decide)
  | false => exact watch_pulse h hb rfl (by decide)

/-- Records are read one after another; the low run in progress is that of the last one. -/
theorem watch_records {x : Receiver} (h : x.highrun = 0) (bs : List Bool) (b : Bool)
    (hlen : x.bits.length + bs.length < 24) :
    x.watch ((bs ++ [b]).flatMap fun b => expandRuns (symbolRuns (symbolOf b))) =
      { x with bits := x.bits ++ (bs ++ [b]), lowrun := lowTicks b } := by
  induction bs generalizing x with
  | nil => simpa using watch_record h (by simpa using hlen) b
  | cons a bs ih =>
    rw [List.length_cons] at hlen
    have hrest := ih (x := { x with bits := x.bits ++ [a], lowrun := lowTicks a }) h
      (by rw [List.length_append, List.length_singleton]; omega)
    rw [List.cons_append, List.flatMap_cons, watch_append, watch_record h (by omega), hrest]
    simp

/-! ### The frame -/

/-- The bits of a frame in the order of their arrival (R138). -/
def frameBits (c : Colour) : List Bool := (List.range 24).map fun p => (wireWord c).getLsbD (23 - p)

theorem length_frameBits (c : Colour) : (frameBits c).length = 24 := by
  rw [frameBits, List.length_map, List.length_range]

theorem wave_eq_frameBits (c : Colour) :
    wave c = (frameBits c).flatMap fun b => expandRuns (symbolRuns (symbolOf b)) := by
  rw [wave_eq, frameBits, List.flatMap_map]

/-- The first `n` bits of a word, read as a number, are its high part. -/
theorem foldl_highBits (w : BitVec 24) {n : Nat} (hn : n ≤ 24) :
    ((List.range n).map fun p => w.getLsbD (23 - p)).foldl (fun n b => 2 * n + b.toNat) 0 =
      w.toNat / 2 ^ (24 - n) := by
  induction n with
  | zero => exact (Nat.div_eq_of_lt w.isLt).symm
  | succ n ih =>
    have hexp : 24 - n = 23 - n + 1 := by omega
    have hsub : 24 - (n + 1) = 23 - n := by omega
    rw [List.range_succ, List.map_append, List.foldl_append, ih (by omega), hexp, hsub, Nat.pow_succ,
      ← Nat.div_div_eq_div_mul]
    simp only [List.map_cons, List.map_nil, List.foldl_cons, List.foldl_nil, BitVec.getLsbD, Nat.toNat_testBit]
    exact Nat.div_add_mod _ 2

theorem wordOfBits_frameBits (c : Colour) : wordOfBits (frameBits c) = wireWord c := by
  rw [wordOfBits, frameBits, foldl_highBits _ le_rfl, Nat.sub_self, Nat.pow_zero, Nat.div_one, BitVec.ofNat_toNat,
    BitVec.setWidth_eq]

theorem getLsbD_zero_append {m n : Nat} (v : BitVec m) (w : BitVec (n + 1)) : (v ++ w).getLsbD 0 = w.getLsbD 0 := by
  rw [BitVec.getLsbD_append, if_pos n.succ_pos]

/-- The last bit on the wire is bit 0 of blue. -/
theorem frameBits_snoc (c : Colour) :
    frameBits c = ((List.range 23).map fun p => (wireWord c).getLsbD (23 - p)) ++ [c.getLsbD 0] := by
  have hlast : (wireWord c).getLsbD 0 = c.getLsbD 0 := by
    rw [wireWord, getLsbD_zero_append]
    simp [blueOf]
  rw [frameBits, List.range_succ, List.map_append, List.map_singleton, Nat.sub_self, hlast]

theorem watch_wave {x : Receiver} (hb : x.bits = []) (h : x.highrun = 0) (c : Colour) :
    x.watch (wave c) = { x with bits := frameBits c, lowrun := lowTicks (c.getLsbD 0) } := by
  rw [wave_eq_frameBits, frameBits_snoc, watch_records h _ _ (by simp [hb]), hb, List.nil_append]

theorem lowTicks_lt (b : Bool) : lowTicks b < 500 := by
  cases b <;> decide

section
variable {x : Receiver} (hb : x.bits = []) (h : x.highrun = 0) (c : Colour) {m : Nat}
include hb h

/-- A low run that is still below 500 ticks leaves the 24 bits where they are. -/
theorem watch_wave_low (hm : m + lowTicks (c.getLsbD 0) < 500) :
    x.watch (wave c ++ List.replicate m false) =
      { x with bits := frameBits c, lowrun := lowTicks (c.getLsbD 0) + m } := by
  rw [watch_append, watch_wave hb h, watch_low_counts (by exact h) (.inl (by simp only; omega))]

/-- One of 500 ticks has latched the colour. -/
theorem watch_wave_latched (hm : 500 ≤ m + lowTicks (c.getLsbD 0)) :
    x.watch (wave c ++ List.replicate m false) =
      { x with bits := [], latched := some c, lowrun := lowTicks (c.getLsbD 0) + m } := by
  rw [watch_append, watch_wave hb h,
    watch_low_latches (by exact h) (length_frameBits c) (lowTicks_lt _) (by simp only; omega)]
  simp only [wordOfBits_frameBits, colourOfWire_wireWord]

end

/-! ### The line of a SEND -/

/-- A shorter trace is the beginning of a longer one. -/
theorem take_lineTrace {j k : Nat} (h : j ≤ k) (s : State) : (lineTrace k s).take j = lineTrace j s := by
  induction j generalizing k s with
  | zero => rfl
  | succ j ih =>
    obtain ⟨i, rfl⟩ := Nat.exists_eq_add_of_le' (Nat.one_le_of_lt h)
    simp only [lineTrace, List.take_succ_cons]
    cases step s with
    | next t => rw [ih (Nat.le_of_succ_le_succ h) t]
    | fault f => rw [List.take_nil]
    | refused f => rw [List.take_nil]

/-- The line of a SEND to the tick `j` of its hold (R129). -/
theorem lineTrace_send_hold {s : State} {r g b : Channel} (h : StateInv s) (hs : s.seq = .idle)
    (hv : s.input.cmdValid = true) (hd : decodeCommand s.input.cmdWord = .instr (.send r g b))
    (hr : NoReset (1 + s.cfg.startLatencyTicks + frameTicks (colourOf r g b) + s.cfg.resetHoldTicks) s)
    (hf : NoPeripheralFailure (1 + s.cfg.startLatencyTicks + frameTicks (colourOf r g b) + s.cfg.resetHoldTicks) s)
    (hw : WaitWindowAtLeast (s.cfg.startLatencyTicks + frameTicks (colourOf r g b)) s)
    {j : Nat} (hj : j ≤ s.cfg.resetHoldTicks) :
    lineTrace (1 + s.cfg.startLatencyTicks + frameTicks (colourOf r g b) + j) s =
      List.replicate (s.cfg.startLatencyTicks + 1) false ++ (wave (colourOf r g b) ++ List.replicate j false) := by
  obtain ⟨_, hline, _⟩ := sendTimeline s r g b h hs hv hd hr hf hw
  have hlen : 1 + s.cfg.startLatencyTicks + frameTicks (colourOf r g b) =
      (List.replicate (s.cfg.startLatencyTicks + 1) false ++ wave (colourOf r g b)).length := by
    rw [List.length_append, List.length_replicate, length_wave]
    omega
  rw [← take_lineTrace (Nat.add_le_add_left hj _), hline, ← List.cons_append, ← List.cons_append,
    ← List.replicate_succ, hlen, List.take_length_add_append, List.take_replicate, Nat.min_eq_left hj,
    List.append_assoc]

/-! ### The obligations -/

/-- Settles O38: the frame is read bit by bit, and the low run decides. -/
theorem receiverReadsTheFrame : Obligations.ReceiverReadsTheFrame := by
  unfold Obligations.ReceiverReadsTheFrame
  intro c x hb h m
  refine ⟨fun hm => ?_, fun hm => ?_⟩
  · rw [watch_wave_low hb h c hm]
    exact ⟨rfl, length_frameBits c⟩
  · rw [watch_wave_latched hb h c hm]
    exact ⟨rfl, rfl⟩

/-- Settles O39: the low ticks before the frame change nothing the receiver holds, and the hold goes on the last low
half. -/
theorem completedSendLatchesItsColour : Obligations.CompletedSendLatchesItsColour := by
  unfold Obligations.CompletedSendLatchesItsColour
  intro s r g b x h hs hv hd c n hr hf hw hb hx j hj
  have hlow : lowTicks (c.getLsbD 0) = if b.getLsbD 0 then 6 else 8 :=
    congrArg lowTicks (getLsbD_zero_append (r ++ g) b)
  have hfloor : j < (if b.getLsbD 0 then 494 else 492) ↔ j + lowTicks (c.getLsbD 0) < 500 := by
    rw [hlow]
    split_ifs <;> omega
  rw [lineTrace_send_hold h hs hv hd hr hf hw hj, watch_append, watch_low_counts hx (.inr hb)]
  simp only [hfloor]
  split_ifs with hm
  · rw [watch_wave_low (by exact hb) (by exact hx) c hm]
  · rw [watch_wave_latched (by exact hb) (by exact hx) c (Nat.le_of_not_lt hm)]

end Sys2Proof.Proofs
end

section
/-! PROOFS. The assembler: what a line reads as, and that a number in decimal or in hexadecimal is read as its value
(30_encoding.md R90). -/

namespace Sys2Proof.Proofs

open Sys2Proof Sys2Proof.Machine Sys2Proof.Laws

/-! ### Tokens -/

/-- A character that no part of the assembler treats as a separator. -/
def isTokenChar (c : Char) : Bool := !isBlankChar c && c != ',' && c != ';'

/-- A mnemonic or an operand as it stands in a line. -/
structure Token (cs : List Char) : Prop where
  ne_nil : cs ≠ []
  chars : ∀ c ∈ cs, isTokenChar c = true

theorem isTokenChar_iff (c : Char) :
    isTokenChar c = true ↔ isBlankChar c = false ∧ c ≠ ',' ∧ c ≠ ';' := by
  simp [isTokenChar, and_assoc]

/-- Text that neither the comment rule nor the trimming shortens. -/
structure Clean (cs : List Char) : Prop where
  ne_nil : cs ≠ []
  head : ∀ c ∈ cs.head?, isBlankChar c = false
  last : ∀ c ∈ cs.getLast?, isBlankChar c = false
  noComment : ';' ∉ cs

theorem Token.clean {cs : List Char} (h : Token cs) : Clean cs where
  ne_nil := h.ne_nil
  head c hc := ((isTokenChar_iff c).mp (h.chars c (List.mem_of_head? hc))).1
  last c hc := ((isTokenChar_iff c).mp (h.chars c (List.mem_of_getLast? hc))).1
  noComment hc := by simpa [isTokenChar] using h.chars _ hc

theorem Clean.append {t mid u : List Char} (ht : Clean t) (hmid : ';' ∉ mid) (hu : Clean u) :
    Clean (t ++ mid ++ u) where
  ne_nil := by simp [ht.ne_nil]
  head c hc := ht.head c (by rwa [List.append_assoc, List.head?_append_of_ne_nil _ ht.ne_nil] at hc)
  last c hc := hu.last c (by rwa [List.getLast?_append_of_ne_nil _ hu.ne_nil] at hc)
  noComment := by simp [ht.noComment, hmid, hu.noComment]

/-! ### Comments and blanks -/

theorem dropWhile_of_head {p : Char → Bool} {cs : List Char} (h : ∀ c ∈ cs.head?, p c = false) :
    cs.dropWhile p = cs := by
  cases cs with
  | nil => rfl
  | cons c cs => exact List.dropWhile_cons_of_neg (by simp [h c rfl])

theorem Clean.trimBlanks_eq {cs : List Char} (h : Clean cs) : trimBlanks cs = cs := by
  rw [trimBlanks, dropWhile_of_head h.head, dropWhile_of_head (by rw [List.head?_reverse]; exact h.last),
    List.reverse_reverse]

theorem trimBlanks_blank (cs : List Char) : trimBlanks (' ' :: cs) = trimBlanks cs := rfl

theorem Clean.withoutComment_eq {cs : List Char} (h : Clean cs) : withoutComment cs = cs :=
  List.takeWhile_eq_self_iff.mpr fun c hc => by
    have hne : c ≠ ';' := fun heq => h.noComment (heq ▸ hc)
    simpa using hne

theorem withoutComment_append_comment (line comment : List Char) :
    withoutComment (line ++ [';'] ++ comment) = withoutComment line := by
  induction line with
  | nil => rfl
  | cons c cs ih =>
    simp only [withoutComment, List.cons_append, List.takeWhile_cons] at ih ⊢
    rw [ih]

/-! ### Operands -/

/-- Operands as they are written, each after a comma and a space. -/
def operandText : List (List Char) → List Char
  | [] => []
  | [t] => t
  | t :: u :: ts => t ++ [',', ' '] ++ operandText (u :: ts)

theorem clean_operandText {t : List Char} {ts : List (List Char)} (h : ∀ u ∈ t :: ts, Token u) :
    Clean (operandText (t :: ts)) := by
  induction ts generalizing t with
  | nil => exact (h t (by simp)).clean
  | cons u ts ih =>
    exact (h t (by simp)).clean.append (by decide) (ih fun v hv => h v (List.mem_cons_of_mem t hv))

theorem splitCommas_ne_nil (cs : List Char) : splitCommas cs ≠ [] := by
  cases cs with
  | nil => simp [splitCommas]
  | cons c cs =>
    rw [splitCommas]
    split
    · simp
    · split <;> simp

/-- Text without a comma goes to the first piece. -/
theorem splitCommas_append {t rest p : List Char} {ps : List (List Char)} (ht : ',' ∉ t)
    (hrest : splitCommas rest = p :: ps) : splitCommas (t ++ rest) = (t ++ p) :: ps := by
  induction t with
  | nil => exact hrest
  | cons c t ih =>
    rw [List.mem_cons, not_or] at ht
    have hc : (c == ',') = false := by simpa using Ne.symm ht.1
    rw [List.cons_append, splitCommas, hc, ih ht.2]
    rfl

theorem Token.noComma {t : List Char} (h : Token t) : ',' ∉ t := fun hc => by
  simpa [isTokenChar] using h.chars _ hc

/-- A blank before the first piece is trimmed with it. -/
theorem map_trimBlanks_splitCommas_blank (cs : List Char) :
    (splitCommas (' ' :: cs)).map trimBlanks = (splitCommas cs).map trimBlanks := by
  obtain ⟨p, ps, hp⟩ := List.exists_cons_of_ne_nil (splitCommas_ne_nil cs)
  have hblank : splitCommas (' ' :: cs) = (' ' :: p) :: ps := splitCommas_append (t := [' ']) (by decide) hp
  rw [hblank, hp, List.map_cons, List.map_cons, trimBlanks_blank]

theorem splitCommas_operandText {t : List Char} {ts : List (List Char)} (h : ∀ u ∈ t :: ts, Token u) :
    (splitCommas (operandText (t :: ts))).map trimBlanks = t :: ts := by
  have ht := h t (by simp)
  induction ts generalizing t with
  | nil =>
    have hsplit : splitCommas t = [t] := by
      simpa using splitCommas_append (rest := []) ht.noComma rfl
    rw [operandText, hsplit, List.map_singleton, ht.clean.trimBlanks_eq]
  | cons u ts ih =>
    have hcomma : splitCommas (',' :: ' ' :: operandText (u :: ts)) =
        [] :: splitCommas (' ' :: operandText (u :: ts)) := rfl
    have hrest := ih (fun v hv => h v (List.mem_cons_of_mem t hv)) (h u (by simp))
    rw [operandText, List.append_assoc]
    change (splitCommas (t ++ ',' :: ' ' :: operandText (u :: ts))).map trimBlanks = _
    rw [splitCommas_append ht.noComma hcomma, List.append_nil, List.map_cons, map_trimBlanks_splitCommas_blank, hrest,
      ht.clean.trimBlanks_eq]

theorem operandsOf_operandText {t : List Char} {ts : List (List Char)} (h : ∀ u ∈ t :: ts, Token u) :
    operandsOf (' ' :: operandText (t :: ts)) = t :: ts := by
  have hclean := clean_operandText h
  rw [operandsOf, trimBlanks_blank, hclean.trimBlanks_eq]
  split
  · next hnil => exact absurd hnil hclean.ne_nil
  · next c cs hcons => rw [← hcons, splitCommas_operandText h]

/-! ### A line -/

/-- The line has this mnemonic, in capitals, and these operands. -/
structure Reads (line name : List Char) (ops : List (List Char)) : Prop where
  mnemonic : ((trimBlanks (withoutComment line)).takeWhile fun c => !isBlankChar c).map upperChar = name
  operands : operandsOf ((trimBlanks (withoutComment line)).dropWhile fun c => !isBlankChar c) = ops

theorem Token.nonblank {t : List Char} (h : Token t) : ∀ c ∈ t, (!isBlankChar c) = true := fun c hc => by
  simp [((isTokenChar_iff c).mp (h.chars c hc)).1]

theorem reads_mnemonic {name : List Char} (h : Token name) : Reads name (name.map upperChar) [] where
  mnemonic := by
    rw [h.clean.withoutComment_eq, h.clean.trimBlanks_eq, List.takeWhile_eq_self_iff.mpr h.nonblank]
  operands := by
    rw [h.clean.withoutComment_eq, h.clean.trimBlanks_eq, List.dropWhile_eq_nil_iff.mpr h.nonblank]
    rfl

theorem reads_operands {name t : List Char} {ts : List (List Char)} (h : Token name) (hts : ∀ u ∈ t :: ts, Token u) :
    Reads (name ++ [' '] ++ operandText (t :: ts)) (name.map upperChar) (t :: ts) := by
  have hclean := h.clean.append (mid := [' ']) (by decide) (clean_operandText hts)
  constructor
  · rw [hclean.withoutComment_eq, hclean.trimBlanks_eq, List.append_assoc, List.takeWhile_append_of_pos h.nonblank]
    exact congrArg (List.map upperChar) (List.append_nil name)
  · rw [hclean.withoutComment_eq, hclean.trimBlanks_eq, List.append_assoc, List.dropWhile_append_of_pos h.nonblank]
    exact operandsOf_operandText hts

theorem assembleLine_send {line : List Char} {ops : List (List Char)} (h : Reads line ['S', 'E', 'N', 'D'] ops) :
    assembleLine line = asmSend ops := by
  simp [assembleLine, h.mnemonic, h.operands]

theorem assembleLine_init {line : List Char} {ops : List (List Char)} (h : Reads line ['I', 'N', 'I', 'T'] ops) :
    assembleLine line = asmPlain .init ops := by
  simp [assembleLine, h.mnemonic, h.operands]

/-! ### Mnemonics in any case -/

theorem upperChar_eq_toUpper (c : Char) : upperChar c = c.toUpper := by
  by_cases h : 'a' ≤ c ∧ c ≤ 'z'
  · have hletter : ∀ i < 26, upperChar (Char.ofNat (97 + i)) = (Char.ofNat (97 + i)).toUpper := by decide
    have hlow : 97 ≤ c.toNat := h.1
    have hhigh : c.toNat ≤ 122 := h.2
    have hc := hletter (c.toNat - 97) (by omega)
    rwa [Nat.add_sub_cancel' hlow, Char.ofNat_toNat] at hc
  · have hval : ¬ ('a'.val ≤ c.val ∧ c.val ≤ 'z'.val) := h
    rw [upperChar, if_neg h, Char.toUpper, dif_neg hval]

/-- A separator has no other case, so a name whose capitals are a token is one. -/
theorem token_of_map_toUpper {name : List Char} (h : Token (name.map Char.toUpper)) : Token name where
  ne_nil hnil := h.ne_nil (by rw [hnil, List.map_nil])
  chars c hc := by
    have hupper := h.chars c.toUpper (List.mem_map_of_mem hc)
    have hseparator : ∀ d ∈ [' ', '\t', '\r', ',', ';'], c ≠ d := by
      rintro d hd rfl
      revert hupper
      fin_cases hd <;> decide
    simpa [isTokenChar, isBlankChar, and_assoc] using hseparator

/-! ### Numbers -/

theorem digitValue_digitChar : ∀ d < 16, digitValue d.digitChar = some d := by decide

theorem isTokenChar_digitChar : ∀ d < 16, isTokenChar d.digitChar = true := by decide

theorem digitChar_ne_x : ∀ d < 16, d.digitChar ≠ 'x' := by decide

/-- The digits of a text are read from the first one on. -/
theorem numberFrom_append {base acc n : Nat} {cs ds : List Char} (h : numberFrom base acc cs = some n) :
    numberFrom base acc (cs ++ ds) = numberFrom base n ds := by
  induction cs generalizing acc with
  | nil => rw [List.nil_append, Option.some.inj h]
  | cons c cs ih =>
    rw [numberFrom] at h
    rw [List.cons_append, numberFrom]
    split at h
    · next d hd =>
      split_ifs at h with hlt
      rw [if_pos hlt, ih h]
    · simp at h

section
variable {base : Nat} (hlow : 1 < base)
include hlow

/-- The digits of a number are the last one after those of the quotient. -/
theorem toDigits_induction {P : Nat → List Char → Prop} (hdigit : ∀ d < base, P d [d.digitChar])
    (hmore : ∀ n d, d < base → P n (Nat.toDigits base n) → P (base * n + d) (Nat.toDigits base n ++ [d.digitChar]))
    (n : Nat) : P n (Nat.toDigits base n) := by
  induction n using Nat.strongRec with
  | ind n ih =>
    rcases Nat.lt_or_ge n base with hlt | hge
    · rw [Nat.toDigits_of_lt_base hlt]
      exact hdigit n hlt
    · have hquotient := ih (n / base) (Nat.div_lt_self (by omega) hlow)
      have hrec := hmore (n / base) (n % base) (Nat.mod_lt n (by omega)) hquotient
      rwa [Nat.div_add_mod, ← Nat.toDigits_of_base_le hlow hge] at hrec

theorem mem_toDigits (n : Nat) : ∀ c ∈ Nat.toDigits base n, ∃ d < base, c = d.digitChar := by
  refine toDigits_induction hlow (P := fun _ cs => ∀ c ∈ cs, ∃ d < base, c = d.digitChar) (fun d hd c hc => ?_)
    (fun n d hd ih c hc => ?_) n
  · exact ⟨d, hd, List.mem_singleton.mp hc⟩
  · rcases List.mem_append.mp hc with hc | hc
    · exact ih c hc
    · exact ⟨d, hd, List.mem_singleton.mp hc⟩

variable (hhigh : base ≤ 16)
include hhigh

theorem numberFrom_toDigits (n : Nat) : numberFrom base 0 (Nat.toDigits base n) = some n := by
  have hvalue : ∀ d < base, digitValue d.digitChar = some d := fun d hd => digitValue_digitChar d (hd.trans_le hhigh)
  refine toDigits_induction hlow (P := fun n cs => numberFrom base 0 cs = some n) (fun d hd => ?_)
    (fun n d hd ih => ?_) n
  · simp [numberFrom, hvalue d hd, hd]
  · rw [numberFrom_append ih]
    simp [numberFrom, hvalue d hd, hd, Nat.mul_comm]

theorem token_toDigits (n : Nat) : Token (Nat.toDigits base n) where
  ne_nil := Nat.toDigits_ne_nil
  chars c hc := by
    obtain ⟨d, hd, rfl⟩ := mem_toDigits hlow n c hc
    exact isTokenChar_digitChar d (hd.trans_le hhigh)

end

/-- A number as it is written: in decimal, or in hexadecimal after `0x`. -/
def numberText (hex : Bool) (n : Nat) : List Char :=
  if hex then ['0', 'x'] ++ Nat.toDigits 16 n else Nat.toDigits 10 n

theorem token_numberText (hex : Bool) (n : Nat) : Token (numberText hex n) := by
  cases hex with
  | false => exact token_toDigits (by decide) (by decide) n
  | true =>
    have hmark : ∀ c ∈ ['0', 'x'], isTokenChar c = true := by simp [isTokenChar, isBlankChar]
    have hdigits := token_toDigits (base := 16) (by decide) (by decide) n
    exact ⟨by simp [numberText], fun c hc => (List.mem_append.mp hc).elim (hmark c) (hdigits.chars c)⟩

/-- Without an x the text is decimal. -/
theorem parseNumber_decimal {cs : List Char} (hne : cs ≠ []) (hx : 'x' ∉ cs) :
    parseNumber cs = numberFrom 10 0 cs := by
  unfold parseNumber
  split
  · exact absurd rfl hne
  · simp at hx
  · simp at hx
  · rfl

theorem parseNumber_hex {cs : List Char} (hne : cs ≠ []) : parseNumber ('0' :: 'x' :: cs) = numberFrom 16 0 cs := by
  cases cs with
  | nil => exact absurd rfl hne
  | cons c cs => rfl

theorem parseNumber_numberText (hex : Bool) (n : Nat) : parseNumber (numberText hex n) = some n := by
  cases hex with
  | true => exact (parseNumber_hex Nat.toDigits_ne_nil).trans (numberFrom_toDigits (by decide) le_rfl n)
  | false =>
    have hx : 'x' ∉ Nat.toDigits 10 n := fun hc => by
      obtain ⟨d, hd, heq⟩ := mem_toDigits (by decide) n _ hc
      exact digitChar_ne_x d (hd.trans (by decide)) heq.symm
    exact (parseNumber_decimal Nat.toDigits_ne_nil hx).trans (numberFrom_toDigits (by decide) (by decide) n)

theorem channelOperand_numberText (hex : Bool) (n : Nat) :
    channelOperand (numberText hex n) = if n ≤ 255 then .inr (BitVec.ofNat 8 n) else .inl .outOfRange := by
  rw [channelOperand, parseNumber_numberText]

/-- SEND of three numbers: their word where all are in range, and the error otherwise. -/
theorem asmSend_numbers (hr hg hb : Bool) (r g b : Nat) :
    asmSend [numberText hr r, numberText hg g, numberText hb b] =
      if r ≤ 255 ∧ g ≤ 255 ∧ b ≤ 255 then .word (0x20#8 ++ BitVec.ofNat 8 r ++ BitVec.ofNat 8 g ++ BitVec.ofNat 8 b)
      else .error .outOfRange := by
  simp only [asmSend, channelOperand_numberText]
  by_cases h : r ≤ 255 ∧ g ≤ 255 ∧ b ≤ 255
  · obtain ⟨hr, hg, hb⟩ := h
    simp only [hr, hg, hb, and_self, if_true]
    rfl
  · rw [if_neg h]
    split_ifs with hr hg hb
    · exact absurd ⟨hr, hg, hb⟩ h
    all_goals rfl

/-! ### The obligation -/

/-- Settles O7: the line reads as its mnemonic and its operands, and each number as its value. -/
theorem sendLineAssembles : Obligations.SendLineAssembles := by
  unfold Obligations.SendLineAssembles
  intro number
  have hcapitals : ∀ name : List Char, name.map upperChar = name.map Char.toUpper := fun name =>
    List.map_congr_left fun c _ => upperChar_eq_toUpper c
  have hsend : Token ['S', 'E', 'N', 'D'] := ⟨by decide, by simp [isTokenChar, isBlankChar]⟩
  have hinit : Token ['I', 'N', 'I', 'T'] := ⟨by decide, by simp [isTokenChar, isBlankChar]⟩
  refine ⟨fun name hr hg hb r g b hname => ?_, fun name hname => ?_, fun line comment => ?_⟩
  · have htoken : Token name := token_of_map_toUpper (hname ▸ hsend)
    have hreads := reads_operands htoken (t := numberText hr r) (ts := [numberText hg g, numberText hb b])
      (by simp [token_numberText])
    rw [hcapitals, hname] at hreads
    have hline := (assembleLine_send hreads).trans (asmSend_numbers hr hg hb r g b)
    simp only [operandText, ← List.append_assoc] at hline
    exact ⟨fun hrange => hline.trans (if_pos hrange), fun hrange => hline.trans (if_neg (by omega))⟩
  · have htoken : Token name := token_of_map_toUpper (hname ▸ hinit)
    refine ⟨?_, fun hex n => ?_⟩
    · have hreads := reads_mnemonic htoken
      rw [hcapitals, hname] at hreads
      exact assembleLine_init hreads
    · have hreads := reads_operands htoken (t := numberText hex n) (ts := []) (by simp [token_numberText])
      rw [hcapitals, hname] at hreads
      exact assembleLine_init hreads
  · simp only [assembleLine, withoutComment_append_comment]

end Sys2Proof.Proofs
end
